-- ==== Sys2Proof/Word.lean ====
section
/-! DEFINITION. The bit vectors and byte vectors every other file speaks of (00_scope.md R7, R11, R12, R15).
Every value of the block is an unsigned integer of a stated width (R12), so every one is a `BitVec` of that
width; `v[hi:lo]` of the spec (R11) is Lean's `v.extractLsb hi lo`, bits numbered from 0 at the least
significant end. -/

namespace Sys2Proof

/-- One bit: every 1-bit field of the spec (`rtr`, `s`, `e`, `c`, `t`, …). -/
abbrev Bit := BitVec 1

/-- One byte. -/
abbrev Byte := BitVec 8

/-- The 32-bit values: `id_word`, `data32`, `exp_value`, `xfer_size`, `abort_code`. -/
abbrev Word := BitVec 32

/-- A vector of `n` bytes in byte-index order, byte 0 first (R11, R15). -/
abbrev Bytes (n : Nat) := Vector Byte n

end Sys2Proof
end

