-- ==== Sys2Proof/Config.lean ====
section
/-! DEFINITION. The two parameters of the block (00_scope.md R8, R9; 10_state.md R28) and the default class
table (30_encoding.md R84). They are fixed when the block is instantiated; no request and no reset changes
them. A model takes them as arguments (R8, R9; D8, D9), so they are data: every statement that speaks of a
state `s` speaks of `s.params`, and thereby of every setting. -/

namespace Sys2Proof

/-- The spec's name for the block (00_scope.md R2). -/
def identity : String := "CFPD/libcanopen-v7"

/-- The classes a function code can have (R84). -/
inductive FcClass where
  /-- NMT command. -/
  | nmtMc
  /-- NMT node-guard or heartbeat reply. -/
  | nmtNg
  /-- SDO, server to client. -/
  | sdoRsp
  /-- SDO, client to server. -/
  | sdoReq
  /-- A recognised class the block passes through. -/
  | opaqueClass
  /-- A function code that matches none of the recognised classes. -/
  | unknown
deriving DecidableEq, Repr

/-- One setting of the block's two parameters. There is no other (R10). -/
structure Params where
  /-- `P_STRICT_ID` (R8): whether a non-zero reserved identifier bit fails CLASSIFY and PARSE. -/
  strictId : Bool
  /-- `P_FC_CLASS` (R9): the class of each 4-bit function code, entry `fc` for code `fc`. -/
  fcClass : Vector FcClass 16
deriving DecidableEq, Repr

/-- The default of `P_FC_CLASS`, row by row the table of R84: the CANopen predefined connection set, which the
spec marks as general knowledge (log entry 4). -/
def defaultFcClass : Vector FcClass 16 :=
  #v[.nmtMc,                                                          -- 0x0 NMT command
     .opaqueClass, .opaqueClass,                                      -- 0x1 SYNC and EMCY, 0x2 TIME
     .opaqueClass, .opaqueClass, .opaqueClass, .opaqueClass,          -- 0x3 to 0x6 PDO1, PDO2
     .opaqueClass, .opaqueClass, .opaqueClass, .opaqueClass,          -- 0x7 to 0xA PDO3, PDO4
     .sdoRsp, .sdoReq,                                                -- 0xB, 0xC SDO
     .unknown,                                                        -- 0xD not assigned
     .nmtNg,                                                          -- 0xE NMT error control
     .unknown]                                                        -- 0xF not assigned

/-- The instance 95_test_vectors.md assumes where it says nothing else: `P_STRICT_ID = false` and the default
table. `State.reset` is a block of this instance (DESIGN CHOICE, unsafe, log entry 3). -/
def Params.default : Params := ⟨false, defaultFcClass⟩

end Sys2Proof
end

