-- ==== Sys2Proof/Syntax.lean ====
section
/-! DEFINITION. What a host can present to the block (10_state.md R30 to R36, R39; 30_encoding.md R70 to R76,
R93): payloads, operand records, requests, and the nine instructions, one constructor for each row of
spec/opcode_table.json. Every field stands at its declared width (R16), so no term of `Instr` holds a value the
spec does not allow there. -/

namespace Sys2Proof

/-- The command-byte layout the caller selects (R73). `PHASE = 0b11` is reserved and is no phase. -/
inductive Phase where
  | init
  | seg
  | gen
deriving DecidableEq, Repr

/-- A typed payload: exactly one variant is active (R30). -/
inductive Payload where
  /-- NMT command (R31). -/
  | nmtMc (cs node : Byte)
  /-- NMT node-guard or heartbeat reply (R32). -/
  | nmtNg (state : Byte)
  /-- SDO message in the initiate layout (R33). -/
  | sdoInit (s e : Bit) (n : BitVec 2) (x : Bit) (cs : BitVec 3) (index : BitVec 16) (subindex : Byte) (data : Bytes 4)
  /-- SDO message in the segment layout (R34). -/
  | sdoSeg (c : Bit) (n : BitVec 3) (t : Bit) (cs : BitVec 3) (seg : Bytes 7)
  /-- SDO message in the generic/abort layout (R35). -/
  | sdoGen (rsv : BitVec 5) (cs : BitVec 3) (index : BitVec 16) (subindex : Byte) (data : Bytes 4)
  /-- The opaque/raw variant (R36). -/
  | opaqueRaw (bytes : Bytes 8) (len : Byte)
deriving DecidableEq, Repr

/-- An operand record (R39). -/
inductive Operand where
  | rawImg (img : Bytes 16)
  | decIn (fc : BitVec 4) (dlen : Byte) (b : Bytes 8)
  | encIn (p : Payload)
  | frameIn (rtr : Bit) (fc : BitVec 4) (node : BitVec 7) (dlen : Byte) (p : Payload)
deriving DecidableEq, Repr

/-- The type of an operand record, without its contents (R75). -/
inductive OperandKind where
  | rawImg
  | decIn
  | encIn
  | frameIn
deriving DecidableEq, Repr

def Operand.kind : Operand → OperandKind
  | .rawImg _ => .rawImg
  | .decIn _ _ _ => .decIn
  | .encIn _ => .encIn
  | .frameIn _ _ _ _ _ => .frameIn

/-- A request as the host presents it: one command byte and one operand record, whether or not the two go
together (R70; typed operands, R75; log entry 5). -/
structure Request where
  cmd : Byte
  operand : Operand
deriving DecidableEq, Repr

/-- The nine operations a legal command byte names (R74). -/
inductive Op where
  | classify
  | decodeInit
  | parseInit
  | encode
  | pack
  | decodeSeg
  | parseSeg
  | decodeGen
  | parseGen
deriving DecidableEq, Repr

/-- The assembler's name of each operation (R74, R93); no two operations share one. -/
def Op.mnemonic : Op → String
  | .classify => "CLASSIFY"
  | .decodeInit => "DECODE.INIT"
  | .parseInit => "PARSE.INIT"
  | .encode => "ENCODE"
  | .pack => "PACK"
  | .decodeSeg => "DECODE.SEG"
  | .parseSeg => "PARSE.SEG"
  | .decodeGen => "DECODE.GEN"
  | .parseGen => "PARSE.GEN"

/-- The instructions, in the order of spec/opcode_table.json, each with the fields of its operand record. -/
inductive Instr where
  | classify (img : Bytes 16)
  | decodeInit (fc : BitVec 4) (dlen : Byte) (b : Bytes 8)
  | parseInit (img : Bytes 16)
  | encode (p : Payload)
  | pack (rtr : Bit) (fc : BitVec 4) (node : BitVec 7) (dlen : Byte) (p : Payload)
  | decodeSeg (fc : BitVec 4) (dlen : Byte) (b : Bytes 8)
  | parseSeg (img : Bytes 16)
  | decodeGen (fc : BitVec 4) (dlen : Byte) (b : Bytes 8)
  | parseGen (img : Bytes 16)
deriving DecidableEq, Repr

end Sys2Proof
end

