-- ==== Sys2Proof/WellFormed.lean ====
section
/-! DEFINITION. When a request is legal (30_encoding.md R71 to R75): one check for each bullet of R74 and one
for R75. The checks read the command byte by arithmetic, independently of the decoder's bit fields; that the two
agree is proved in Laws/Decode.lean. An `Instr` needs no check of its own: every field has its declared width by
its type (R16), and a length above 8 or a payload of the wrong variant is a legal request that ends with a
status (60_exceptions.md R202, R207). -/

namespace Sys2Proof

/-- `RSV`, bits 7:5, is 0b000 (R71). -/
def rsvClear (c : Byte) : Bool := c.toNat < 32

/-- `OP`, bits 2:0, is not one of the reserved values 0b101 to 0b111 (R72). -/
def opDefined (c : Byte) : Bool := c.toNat % 8 < 5

/-- `PHASE`, bits 4:3, is not 0b11 where `OP` is DECODE or PARSE (R73). -/
def phaseDefined (c : Byte) : Bool :=
  !(c.toNat % 8 == 1 || c.toNat % 8 == 2) || c.toNat / 8 % 4 < 3

/-- `PHASE` is 0b00 where `OP` is CLASSIFY, ENCODE or PACK (R71). -/
def phaseUnused (c : Byte) : Bool :=
  !(c.toNat % 8 == 0 || c.toNat % 8 == 3 || c.toNat % 8 == 4) || c.toNat / 8 % 4 == 0

/-- The command byte is one of the nine legal values (R74). -/
def cmdLegal (c : Byte) : Bool :=
  rsvClear c && opDefined c && phaseDefined c && phaseUnused c

/-- The operand record has the type `OP` takes (R75). -/
def operandTyped (r : Request) : Bool :=
  match r.operand with
  | .rawImg _ => r.cmd.toNat % 8 == 0 || r.cmd.toNat % 8 == 2
  | .decIn _ _ _ => r.cmd.toNat % 8 == 1
  | .encIn _ => r.cmd.toNat % 8 == 3
  | .frameIn _ _ _ _ _ => r.cmd.toNat % 8 == 4

/-- A legal request: both checks of R206 pass. -/
def Request.wellFormed (r : Request) : Bool :=
  cmdLegal r.cmd && operandTyped r

end Sys2Proof
end

