-- ==== Sys2Proof/Decode.lean ====
section
/-! DEFINITION. The decoder, total on every command byte and every operand record, which rejects by name
(30_encoding.md R71 to R76, R92), and after it the encoder, written from R74's list of the nine command bytes. -/

namespace Sys2Proof

/-- Why a request is no instruction; each ends with ILLEGAL_REQUEST (60_exceptions.md R206). -/
inductive DecodeError where
  /-- `RSV != 0` (R71). -/
  | reservedBits
  /-- `OP` in 0b101 to 0b111 (R72). -/
  | reservedOp
  /-- DECODE or PARSE with `PHASE = 0b11` (R73). -/
  | reservedPhase
  /-- CLASSIFY, ENCODE or PACK with `PHASE != 0b00` (R71). -/
  | phaseNotAllowed
  /-- An operand record of a type the operation does not take (R75). -/
  | mistypedOperand
deriving DecidableEq, Repr

/-- `CMD.OP` (R71). -/
def cmdOp (c : Byte) : BitVec 3 := c.extractLsb 2 0

/-- `CMD.PHASE` (R71). -/
def cmdPhase (c : Byte) : BitVec 2 := c.extractLsb 4 3

/-- `CMD.RSV` (R71). -/
def cmdRsv (c : Byte) : BitVec 3 := c.extractLsb 7 5

/-- The operation a command byte names (R72, R73): first number `OP`, second `PHASE`. -/
def decodeOp (c : Byte) : Except DecodeError Op :=
  if cmdRsv c ≠ 0#3 then .error .reservedBits
  else
    match (cmdOp c).toNat, (cmdPhase c).toNat with
    | 0, 0 => .ok .classify
    | 1, 0 => .ok .decodeInit
    | 1, 1 => .ok .decodeSeg
    | 1, 2 => .ok .decodeGen
    | 2, 0 => .ok .parseInit
    | 2, 1 => .ok .parseSeg
    | 2, 2 => .ok .parseGen
    | 3, 0 => .ok .encode
    | 4, 0 => .ok .pack
    | 0, _ => .error .phaseNotAllowed
    | 1, _ => .error .reservedPhase
    | 2, _ => .error .reservedPhase
    | 3, _ => .error .phaseNotAllowed
    | 4, _ => .error .phaseNotAllowed
    | _, _ => .error .reservedOp

/-- The operand record's type, fixed by the operation (R75). -/
def operandKindOf : Op → OperandKind
  | .classify => .rawImg
  | .decodeInit => .decIn
  | .decodeSeg => .decIn
  | .decodeGen => .decIn
  | .parseInit => .rawImg
  | .parseSeg => .rawImg
  | .parseGen => .rawImg
  | .encode => .encIn
  | .pack => .frameIn

/-- The instruction of an operation and an operand record, which must be of the operation's type (R75). -/
def bindOperand (op : Op) (x : Operand) : Except DecodeError Instr :=
  match x with
  | .rawImg img =>
    match op with
    | .classify => .ok (.classify img)
    | .parseInit => .ok (.parseInit img)
    | .parseSeg => .ok (.parseSeg img)
    | .parseGen => .ok (.parseGen img)
    | _ => .error .mistypedOperand
  | .decIn fc dlen b =>
    match op with
    | .decodeInit => .ok (.decodeInit fc dlen b)
    | .decodeSeg => .ok (.decodeSeg fc dlen b)
    | .decodeGen => .ok (.decodeGen fc dlen b)
    | _ => .error .mistypedOperand
  | .encIn p =>
    match op with
    | .encode => .ok (.encode p)
    | _ => .error .mistypedOperand
  | .frameIn rtr fc node dlen p =>
    match op with
    | .pack => .ok (.pack rtr fc node dlen p)
    | _ => .error .mistypedOperand

/-- The instruction a request stands for. The command byte is judged first and alone tells the operation (R76);
both failures are the one status ILLEGAL_REQUEST (R206). -/
def decode (r : Request) : Except DecodeError Instr :=
  match decodeOp r.cmd with
  | .error e => .error e
  | .ok op => bindOperand op r.operand

/-- The command byte of each operation: the list of R74. -/
def opCmd : Op → Byte
  | .classify => 0x00#8
  | .decodeInit => 0x01#8
  | .decodeSeg => 0x09#8
  | .decodeGen => 0x11#8
  | .parseInit => 0x02#8
  | .parseSeg => 0x0A#8
  | .parseGen => 0x12#8
  | .encode => 0x03#8
  | .pack => 0x04#8

/-- The operation of an instruction. -/
def instrOp : Instr → Op
  | .classify _ => .classify
  | .decodeInit _ _ _ => .decodeInit
  | .parseInit _ => .parseInit
  | .encode _ => .encode
  | .pack _ _ _ _ _ => .pack
  | .decodeSeg _ _ _ => .decodeSeg
  | .parseSeg _ => .parseSeg
  | .decodeGen _ _ _ => .decodeGen
  | .parseGen _ => .parseGen

/-- The operand record of an instruction (R39). -/
def instrOperand : Instr → Operand
  | .classify img => .rawImg img
  | .decodeInit fc dlen b => .decIn fc dlen b
  | .parseInit img => .rawImg img
  | .encode p => .encIn p
  | .pack rtr fc node dlen p => .frameIn rtr fc node dlen p
  | .decodeSeg fc dlen b => .decIn fc dlen b
  | .parseSeg img => .rawImg img
  | .decodeGen fc dlen b => .decIn fc dlen b
  | .parseGen img => .rawImg img

/-- The encoding of an instruction: its command byte followed by its operand record (R93). -/
def encode (i : Instr) : Request := ⟨opCmd (instrOp i), instrOperand i⟩

/-- The operand record of each type whose every field is zero; the payload's variant is the first one of R30
(log entry 5). -/
def zeroOperand : OperandKind → Operand
  | .rawImg => .rawImg (Vector.replicate 16 0#8)
  | .decIn => .decIn 0#4 0#8 (Vector.replicate 8 0#8)
  | .encIn => .encIn (.nmtMc 0#8 0#8)
  | .frameIn => .frameIn 0#1 0#4 0#7 0#8 (.nmtMc 0#8 0#8)

/-- The request whose bits are `w`, numbered as spec/opcode_table.json numbers them: a row is the 8 bits of the
command byte (R76), and the operand record after it is all zeros, of the type the command byte fixes (an image
where the command byte is illegal, which no check looks at). -/
def tableRequest (nbits w : Nat) : Request :=
  let c : Byte := BitVec.ofNat 8 (w % 2 ^ nbits)
  match decodeOp c with
  | .ok op => ⟨c, zeroOperand (operandKindOf op)⟩
  | .error _ => ⟨c, zeroOperand .rawImg⟩

/-- What the decoder reads from that request; none where it rejects it. -/
def decodeTableWord (nbits w : Nat) : Option Instr :=
  match decode (tableRequest nbits w) with
  | .ok i => some i
  | .error _ => none

end Sys2Proof
end

