-- ==== Sys2Proof/Machine/State.lean ====
section
/-! DEFINITION. The state of the block as plain data (10_state.md R20 to R23, R29, R37, R38, R41 to R43): the two
registers `RES` and `STAT`, the instance's two parameters, and the host side of the interface (what the host is
about to do, and what its last read returned), which is the model's own (log entries 1 and 6). -/

namespace Sys2Proof.Machine

/-- A frame header (R29). -/
structure Hdr where
  rtr : Bit
  fc : BitVec 4
  node : BitVec 7
  id11 : BitVec 11
  /-- The message type tag, `type` in the spec (R85). -/
  msgType : BitVec 2
  sdoDir : Bit
  dlen : Byte
  raw : Bytes 8
deriving DecidableEq, Repr

/-- The derived-fields record of a payload (R37). -/
inductive Drv where
  | drvNone
  | drvNg (ngToggle : Bit) (ngState : BitVec 7)
  | drvInit (data32 : Word) (expLen : BitVec 3) (expValue : Word) (sizeValid : Bit) (xferSize : Word)
  | drvSeg (segLen : BitVec 3) (last : Bit)
  | drvGen (data32 : Word) (abort : Bit) (abortCode : Word)
deriving DecidableEq, Repr

/-- A result record (R38). -/
inductive Result where
  | classified (hdr : Hdr)
  | decoded (p : Payload) (d : Drv)
  | parsed (hdr : Hdr) (p : Payload) (d : Drv)
  | encoded (bytes : Bytes 8) (len : Byte)
  | packed (img : Bytes 16)
deriving DecidableEq, Repr

/-- The named status codes (60_exceptions.md R201). -/
inductive Code where
  | ok
  | malformedDlc
  | malformedId
  | unknownFc
  | illegalRequest
  | variantMismatch
  /-- The reset value: no request has ended since reset. -/
  | noneYet
deriving DecidableEq, Repr

/-- A fatal status with the value the spec says is recorded with it (R202, R203, R206, R207). The value stands in
no register (R202; log entry 9). -/
inductive Failure where
  | malformedDlc (len : Byte)
  | malformedId (idWord : Word)
  | illegalRequest (cmd : Byte)
  | variantMismatch (fc : BitVec 4)
deriving DecidableEq, Repr

/-- What a request that completes ends with: `complete(code, r)` (00_scope.md R17). -/
structure Completion where
  code : Code
  res : Result
deriving DecidableEq, Repr

/-- How the block answers the host's read of a register. -/
inductive ReadAnswer where
  | res (r : Result)
  | stat (v : BitVec 5)
  /-- No value: `RES` was read while it holds none, the "model fault" of R14, R21, R232 and D30, recorded here as
  93_implementation_defined.md U12 has it ("the model records a failure or fault"; log entry 7). -/
  | modelFault
deriving DecidableEq, Repr

/-- What the host can do to the block: present a request (30_encoding.md R70), assert reset between requests
(70_reset_and_hazards.md R230), read `RES` or read `STAT` (R21, R22). It can do nothing else. -/
inductive HostAction where
  | request (r : Request)
  | assertReset
  | readRes
  | readStat
deriving DecidableEq, Repr

/-- Why the machine stops: never, so there is no constructor. A failing request ends in a next state with its status
(60_exceptions.md R200, R211), and a read of `RES` while it holds no value is answered with the model fault, no value, and
goes on (log entry 7). -/
inductive Fault where
deriving DecidableEq, Repr

/-- Why an instruction has no meaning. -/
inductive Refusal where
  /-- An instruction not modelled yet, by its mnemonic. No arm of `exec` raises it: all nine instructions have their
  meaning. Safe. -/
  | notModelled (mnemonic : String)
deriving DecidableEq, Repr

structure State where
  /-- The result register `RES`: `none` is the spec's ⊥, "holds no value" (R14, R21). -/
  res : Option Result
  /-- The status register `STAT`: bit 4 `valid`, bits 3:0 `code` (R22). -/
  stat : BitVec 5
  /-- The parameters of this instance (R28): no step changes them. -/
  params : Params
  /-- The model's own: what the host will do, first action first (R60; log entry 1). -/
  host : List HostAction
  /-- The model's own: what the host's last read returned or that it was a model fault (log entries 6, 7). -/
  readPort : Option ReadAnswer
deriving DecidableEq, Repr

/-- The block instantiated with parameters `p`, right after reset (R42, R232), with a host that has presented
nothing and read nothing. -/
def State.resetWith (p : Params) : State :=
  ⟨none, 0b01111#5, p, [], none⟩

/-- The machine right after reset, in the instance 95_test_vectors.md assumes (log entry 3). -/
def State.reset : State := State.resetWith Params.default

end Sys2Proof.Machine
end

