-- ==== Sys2Proof/Machine/Flags.lean ====
section
/-! DEFINITION. The status register's fields and values (10_state.md R22, R41; 60_exceptions.md R201): the only
flags the block has (R26). -/

namespace Sys2Proof.Machine

/-- `STAT[4]`, `valid` (R22). -/
def statValid (v : BitVec 5) : Bit := v.extractLsb 4 4

/-- `STAT[3:0]`, `code` (R22). -/
def statCode (v : BitVec 5) : BitVec 4 := v.extractLsb 3 0

/-- `{valid, code}` as the 5-bit value of `STAT` (R22). -/
def packStat (valid : Bit) (code : BitVec 4) : BitVec 5 := valid ++ code

/-- The number of each status code (R201). -/
def codeNum : Code → BitVec 4
  | .ok => 0x0#4
  | .malformedDlc => 0x1#4
  | .malformedId => 0x2#4
  | .unknownFc => 0x3#4
  | .illegalRequest => 0x4#4
  | .variantMismatch => 0x5#4
  | .noneYet => 0xF#4

/-- The code a request that completes reports for the class of its function code: `code(cls)` of R115 and R155. -/
def completionCode : FcClass → Code
  | .nmtMc => .ok
  | .nmtNg => .ok
  | .sdoRsp => .ok
  | .sdoReq => .ok
  | .opaqueClass => .ok
  | .unknown => .unknownFc

/-- The status code of a failure (R201). -/
def failureCode : Failure → Code
  | .malformedDlc _ => .malformedDlc
  | .malformedId _ => .malformedId
  | .illegalRequest _ => .illegalRequest
  | .variantMismatch _ => .variantMismatch

end Sys2Proof.Machine
end

