-- ==== Sys2Proof/Machine/Operands.lean ====
section
/-! DEFINITION. Every way an operation reads or builds an operand: byte-vector access and byte order (00_scope.md
R13, R17; 20_memory.md R50 to R56), the identifier's fields (30_encoding.md R77, R78; 40_frame_codec.md R112), the
class of a function code and its tag (R84, R85, R115). -/

namespace Sys2Proof.Machine

/-- `MemRead(v, off, n)`: `n` bytes from offset `off` as a little-endian value (R17). The offset is checked by
type: a read past the object cannot be written down (R53). -/
def memRead {k : Nat} (v : Bytes k) (off : Nat) : (n : Nat) → off + n ≤ k → BitVec (8 * n)
  | 0, _ => 0#0
  | n + 1, h => memRead v (off + 1) n (by omega) ++ v[off]'(by omega)

/-- `MemWrite(v, off, n, x)`: the `n` bytes of `x`, least significant first, from offset `off` on (R17). -/
def memWrite {k : Nat} (v : Bytes k) (off : Nat) : (n : Nat) → off + n ≤ k → BitVec (8 * n) → Bytes k
  | 0, _, _ => v
  | n + 1, h, x =>
    memWrite (v.set off (x.setWidth 8) (by omega)) (off + 1) n (by omega) ((x >>> 8).setWidth (8 * n))

/-- `le16(b, k)` (R13). -/
def le16 {m : Nat} (b : Bytes m) (k : Nat) (h : k + 2 ≤ m := by decide) : BitVec 16 :=
  (b[k]'(by omega)).setWidth 16 ||| ((b[k + 1]'(by omega)).setWidth 16 <<< 8)

/-- `le32(b, k)` (R13). -/
def le32 {m : Nat} (b : Bytes m) (k : Nat) (h : k + 4 ≤ m := by decide) : Word :=
  (b[k]'(by omega)).setWidth 32 ||| ((b[k + 1]'(by omega)).setWidth 32 <<< 8)
    ||| ((b[k + 2]'(by omega)).setWidth 32 <<< 16) ||| ((b[k + 3]'(by omega)).setWidth 32 <<< 24)

/-- `id_word`, the identifier field of a frame image (R50, R51). -/
def imgIdWord (img : Bytes 16) : Word := memRead img 0 4 (by decide)

/-- `dlc`, the data length code of a frame image (R50, R52). -/
def imgDlc (img : Bytes 16) : Byte := memRead img 4 1 (by decide)

/-- The payload vector of a frame image, `img[8..15]` (R52). All 8 bytes, whatever `dlc` is (R116): those at
index `dlc` and above are whatever the request brought, which nothing constrains (R239, log entry 8). -/
def imgData (img : Bytes 16) : Bytes 8 :=
  #v[img[8], img[9], img[10], img[11], img[12], img[13], img[14], img[15]]

/-- The reserved bits of the identifier field: 31 and 29:11 (R77). -/
def rsvIdMask : Word := 0xBFFFF800#32

/-- `rtr = id_word[30]` (R77, R112). -/
def idRtr (w : Word) : Bit := w.extractLsb 30 30

/-- `id11 = id_word[10:0]` (R77, R112). -/
def idId11 (w : Word) : BitVec 11 := w.extractLsb 10 0

/-- `fc = id11[10:7]` (R78, R112). -/
def id11Fc (id11 : BitVec 11) : BitVec 4 := id11.extractLsb 10 7

/-- `node = id11[6:0]` (R78, R112). -/
def id11Node (id11 : BitVec 11) : BitVec 7 := id11.extractLsb 6 0

/-- The identifier field PACK writes: every bit but `rtr`, `fc` and `node` is zero (R120). -/
def packIdWord (rtr : Bit) (fc : BitVec 4) (node : BitVec 7) : Word :=
  (rtr.setWidth 32 <<< 30) ||| (fc.setWidth 32 <<< 7) ||| node.setWidth 32

/-- `P_FC_CLASS(fc)` (R9): the class depends on `fc` alone (R84). -/
def classOf (p : Params) (fc : BitVec 4) : FcClass := p.fcClass[fc.toNat]'fc.isLt

/-- The message type tag of a class (R85, R115). -/
def typeTag : FcClass → BitVec 2
  | .nmtMc => 0b00#2
  | .nmtNg => 0b01#2
  | .sdoRsp => 0b10#2
  | .sdoReq => 0b10#2
  | .opaqueClass => 0b11#2
  | .unknown => 0b11#2

/-- `sdo_dir` of a class: 1 for `SDO_REQ` alone (R85, R115). -/
def sdoDirOf : FcClass → Bit
  | .sdoReq => 1#1
  | .nmtMc => 0#1
  | .nmtNg => 0#1
  | .sdoRsp => 0#1
  | .opaqueClass => 0#1
  | .unknown => 0#1

end Sys2Proof.Machine
end

