-- ==== Sys2Proof/Machine/Ops.lean ====
section
/-! DEFINITION. The operations on the registers that every request shares: `raise` and `complete` (00_scope.md R17;
60_exceptions.md R205, R210), which are this block's whole error entry (it has no trap, no handler and no return,
R200, R211), the reset input (70_reset_and_hazards.md R230), and the host's reads (10_state.md R21, R22). -/

namespace Sys2Proof.Machine

/-- `raise S(info)`: `STAT <- {0, S}` and `RES <- ⊥`, and nothing else (R17, R205). -/
def raiseStatus (s : State) (f : Failure) : State :=
  { s with res := none, stat := packStat 0#1 (codeNum (failureCode f)) }

/-- `complete(code, r)`: `RES <- r` and `STAT <- {1, code}` (R17). -/
def completeWith (s : State) (c : Completion) : State :=
  { s with res := some c.res, stat := packStat 1#1 (codeNum c.code) }

/-- The end of a request: both registers change together, and nothing else does (R210, R236). -/
def finish (s : State) : Except Failure Completion → State
  | .error f => raiseStatus s f
  | .ok c => completeWith s c

/-- The reset input: `RES` and `STAT` take the values of R42, the parameters stay (R230, R231). What the host has
read and will do is the host's, not the block's (log entry 15). -/
def resetInput (s : State) : State :=
  { s with res := none, stat := 0b01111#5 }

/-- How a read of `RES` is answered: reading ⊥ is a model fault and yields no value (R14, R21, R232). -/
def resAnswer : Option Result → ReadAnswer
  | some r => .res r
  | none => .modelFault

/-- The host reads `RES`. Neither register changes: only a request or a reset writes them (R21, R22), and between
requests the block holds them (60_exceptions.md R220). So the block stands ready for the next request or reset after a
model fault as after any read (log entry 7). -/
def readRes (s : State) : State :=
  { s with readPort := some (resAnswer s.res) }

/-- The host reads `STAT`: at any time, with no side effect on the block (R22). -/
def readStat (s : State) : State :=
  { s with readPort := some (.stat s.stat) }

end Sys2Proof.Machine
end

