-- ==== Sys2Proof/Machine/Classify.lean ====
section
/-! DEFINITION. CLASSIFY (40_frame_codec.md R110 to R117). -/

namespace Sys2Proof.Machine

/-- The checks CLASSIFY and PARSE make on a frame, in their order: the length first, then the reserved identifier
bits where the parameter says so (R111, R113; 60_exceptions.md R209). -/
def frameFailure (p : Params) (img : Bytes 16) : Option Failure :=
  if 8#8 < imgDlc img then some (.malformedDlc (imgDlc img))
  else if p.strictId = true ∧ imgIdWord img &&& rsvIdMask ≠ 0#32 then some (.malformedId (imgIdWord img))
  else none

/-- The frame header of an image (R112, R115, R116, R117). -/
def frameHdr (p : Params) (img : Bytes 16) : Hdr :=
  let id11 := idId11 (imgIdWord img)
  let cls := classOf p (id11Fc id11)
  { rtr := idRtr (imgIdWord img)
    fc := id11Fc id11
    node := id11Node id11
    id11 := id11
    msgType := typeTag cls
    sdoDir := sdoDirOf cls
    dlen := imgDlc img
    raw := imgData img }

/-- What CLASSIFY of an image ends with (R117). -/
def classify (p : Params) (img : Bytes 16) : Except Failure Completion :=
  match frameFailure p img with
  | some f => .error f
  | none => .ok ⟨completionCode (classOf p (frameHdr p img).fc), .classified (frameHdr p img)⟩

/-- CLASSIFY (R117). -/
def execClassify (img : Bytes 16) (s : State) : Host.Outcome State Fault Refusal :=
  .next (finish s (classify s.params img))

end Sys2Proof.Machine
end

