-- ==== Sys2Proof/Machine/Encode.lean ====
section
/-! DEFINITION. The Payload Interpreter's writing half: `enc_bytes`, `enc_len` and ENCODE
(41_payload_interpreter.md R159 to R161). -/

namespace Sys2Proof.Machine

/-- The initiate layout's command byte (R81). -/
def initByte (s e : Bit) (n : BitVec 2) (x : Bit) (cs : BitVec 3) : Byte :=
  (cs.setWidth 8 <<< 5) ||| (x.setWidth 8 <<< 4) ||| (n.setWidth 8 <<< 2) ||| (e.setWidth 8 <<< 1) ||| s.setWidth 8

/-- The segment layout's command byte (R82). -/
def segByte (c : Bit) (n : BitVec 3) (t : Bit) (cs : BitVec 3) : Byte :=
  (cs.setWidth 8 <<< 5) ||| (t.setWidth 8 <<< 4) ||| (n.setWidth 8 <<< 1) ||| c.setWidth 8

/-- The generic/abort layout's command byte (R83). -/
def genByte (rsv : BitVec 5) (cs : BitVec 3) : Byte :=
  (cs.setWidth 8 <<< 5) ||| rsv.setWidth 8

/-- The object index, subindex and data layout of R79 behind a command byte. -/
def indexedBytes (cmd : Byte) (index : BitVec 16) (subindex : Byte) (data : Bytes 4) : Bytes 8 :=
  #v[cmd, index.extractLsb 7 0, index.extractLsb 15 8, subindex, data[0], data[1], data[2], data[3]]

/-- `enc_bytes(p)`: bytes no field covers are zero (R159). -/
def encBytes : Payload → Bytes 8
  | .nmtMc cs node => #v[cs, node, 0#8, 0#8, 0#8, 0#8, 0#8, 0#8]
  | .nmtNg state => #v[state, 0#8, 0#8, 0#8, 0#8, 0#8, 0#8, 0#8]
  | .sdoInit s e n x cs index subindex data => indexedBytes (initByte s e n x cs) index subindex data
  | .sdoSeg c n t cs seg => #v[segByte c n t cs, seg[0], seg[1], seg[2], seg[3], seg[4], seg[5], seg[6]]
  | .sdoGen rsv cs index subindex data => indexedBytes (genByte rsv cs) index subindex data
  | .opaqueRaw bytes _ => bytes

/-- `enc_len(p)` (R160). -/
def encLen : Payload → Byte
  | .nmtMc _ _ => 2#8
  | .nmtNg _ => 1#8
  | .sdoInit _ _ _ _ _ _ _ _ => 8#8
  | .sdoSeg _ _ _ _ _ => 8#8
  | .sdoGen _ _ _ _ _ => 8#8
  | .opaqueRaw _ len => len

/-- What ENCODE of a payload ends with (R161). Only an opaque payload's own length can exceed 8, so the one check
on `enc_len` is R161's check on the opaque variant. -/
def encodePayload (p : Payload) : Except Failure Completion :=
  if 8#8 < encLen p then .error (.malformedDlc (encLen p))
  else .ok ⟨.ok, .encoded (encBytes p) (encLen p)⟩

/-- ENCODE (R161). -/
def execEncode (p : Payload) (s : State) : Host.Outcome State Fault Refusal :=
  .next (finish s (encodePayload p))

end Sys2Proof.Machine
end

