-- ==== Sys2Proof/Machine/Interpret.lean ====
section
/-! DEFINITION. The Payload Interpreter's reading half: field extraction (41_payload_interpreter.md R142 to R147),
derived fields (R148 to R154), and DECODE.INIT, DECODE.SEG and DECODE.GEN (R155 to R158). -/

namespace Sys2Proof.Machine

/-- `b[4..7]` of a payload vector. -/
def dataBytes (b : Bytes 8) : Bytes 4 := #v[b[4], b[5], b[6], b[7]]

/-- `b[1..7]` of a payload vector. -/
def segBytes (b : Bytes 8) : Bytes 7 := #v[b[1], b[2], b[3], b[4], b[5], b[6], b[7]]

/-- NMT command (R142). -/
def readNmtMc (b : Bytes 8) : Payload := .nmtMc b[0] b[1]

/-- Node-guard or heartbeat reply (R143). -/
def readNmtNg (b : Bytes 8) : Payload := .nmtNg b[0]

/-- SDO, initiate layout (R79, R81, R144). -/
def readSdoInit (b : Bytes 8) : Payload :=
  .sdoInit (s := b[0].extractLsb 0 0) (e := b[0].extractLsb 1 1) (n := b[0].extractLsb 3 2)
    (x := b[0].extractLsb 4 4) (cs := b[0].extractLsb 7 5)
    (index := le16 b 1) (subindex := b[3]) (data := dataBytes b)

/-- SDO, segment layout (R80, R82, R145). -/
def readSdoSeg (b : Bytes 8) : Payload :=
  .sdoSeg (c := b[0].extractLsb 0 0) (n := b[0].extractLsb 3 1) (t := b[0].extractLsb 4 4)
    (cs := b[0].extractLsb 7 5) (seg := segBytes b)

/-- SDO, generic/abort layout (R79, R83, R146). -/
def readSdoGen (b : Bytes 8) : Payload :=
  .sdoGen (rsv := b[0].extractLsb 4 0) (cs := b[0].extractLsb 7 5)
    (index := le16 b 1) (subindex := b[3]) (data := dataBytes b)

/-- The SDO layout is the phase's alone; the command byte is never looked at to choose it (R141). -/
def readSdo (b : Bytes 8) : Phase → Payload
  | .init => readSdoInit b
  | .seg => readSdoSeg b
  | .gen => readSdoGen b

/-- The payload half of `dec(fc, dlen, b, phase)`, for the class of `fc` (R155). -/
def decPayload (cls : FcClass) (dlen : Byte) (b : Bytes 8) (ph : Phase) : Payload :=
  match cls with
  | .nmtMc => readNmtMc b
  | .nmtNg => readNmtNg b
  | .sdoRsp => readSdo b ph
  | .sdoReq => readSdo b ph
  | .opaqueClass => .opaqueRaw b dlen
  | .unknown => .opaqueRaw b dlen

/-- `exp_len` (R150). -/
def expLen (s e : Bit) (n : BitVec 2) : BitVec 3 :=
  if e = 1#1 then (if s = 1#1 then 4#3 - n.setWidth 3 else 4#3) else 0#3

/-- `exp_value`: the first `len` data bytes as a little-endian value (R150). -/
def expValue (len : BitVec 3) (data32 : Word) : Word :=
  if len = 4#3 then data32 else data32 &&& ((1#32 <<< (8 * len.toNat)) - 1#32)

/-- `size_valid` (R151). -/
def sizeValid (s e : Bit) : Bit := if e = 0#1 ∧ s = 1#1 then 1#1 else 0#1

/-- `abort` (R153). -/
def abortFlag (cs : BitVec 3) : Bit := if cs = 4#3 then 1#1 else 0#1

/-- A value that a flag gates: the value where the flag is 1, else 0 (`xfer_size` of R151, `abort_code` of R153). -/
def gated (flag : Bit) (v : Word) : Word := if flag = 1#1 then v else 0#32

/-- `drv(p)` (R148 to R154). -/
def drv : Payload → Drv
  | .nmtMc _ _ => .drvNone
  | .nmtNg state => .drvNg (state.extractLsb 7 7) (state.extractLsb 6 0)
  | .sdoInit s e n _ _ _ _ data =>
    .drvInit (le32 data 0) (expLen s e n) (expValue (expLen s e n) (le32 data 0))
      (sizeValid s e) (gated (sizeValid s e) (le32 data 0))
  | .sdoSeg c n _ _ _ => .drvSeg (7#3 - n) c
  | .sdoGen _ cs _ _ data => .drvGen (le32 data 0) (abortFlag cs) (gated (abortFlag cs) (le32 data 0))
  | .opaqueRaw _ _ => .drvNone

/-- What DECODE in a phase ends with: the pseudocode the three operations share (R156 to R158). -/
def decodePayload (p : Params) (fc : BitVec 4) (dlen : Byte) (b : Bytes 8) (ph : Phase) :
    Except Failure Completion :=
  if 8#8 < dlen then .error (.malformedDlc dlen)
  else
    let pl := decPayload (classOf p fc) dlen b ph
    .ok ⟨completionCode (classOf p fc), .decoded pl (drv pl)⟩

/-- DECODE.INIT (R156). -/
def execDecodeInit (fc : BitVec 4) (dlen : Byte) (b : Bytes 8) (s : State) : Host.Outcome State Fault Refusal :=
  .next (finish s (decodePayload s.params fc dlen b .init))

/-- DECODE.SEG (R157). -/
def execDecodeSeg (fc : BitVec 4) (dlen : Byte) (b : Bytes 8) (s : State) : Host.Outcome State Fault Refusal :=
  .next (finish s (decodePayload s.params fc dlen b .seg))

/-- DECODE.GEN (R158). -/
def execDecodeGen (fc : BitVec 4) (dlen : Byte) (b : Bytes 8) (s : State) : Host.Outcome State Fault Refusal :=
  .next (finish s (decodePayload s.params fc dlen b .gen))

end Sys2Proof.Machine
end

