-- ==== Sys2Proof/Machine/Pack.lean ====
section
/-! DEFINITION. PACK (40_frame_codec.md R119, R120; 20_memory.md R66). -/

namespace Sys2Proof.Machine

/-- `compatible(cls, p)`: the payload variant is the one the class selects (R119). -/
def compatible : FcClass → Payload → Bool
  | .nmtMc, .nmtMc _ _ => true
  | .nmtNg, .nmtNg _ => true
  | .sdoRsp, .sdoInit _ _ _ _ _ _ _ _ => true
  | .sdoRsp, .sdoSeg _ _ _ _ _ => true
  | .sdoRsp, .sdoGen _ _ _ _ _ => true
  | .sdoReq, .sdoInit _ _ _ _ _ _ _ _ => true
  | .sdoReq, .sdoSeg _ _ _ _ _ => true
  | .sdoReq, .sdoGen _ _ _ _ _ => true
  | .opaqueClass, .opaqueRaw _ _ => true
  | .unknown, .opaqueRaw _ _ => true
  | _, _ => false

/-- The image with the identifier field, length, zero padding and payload bytes of R66. -/
def packImage (idWord : Word) (dlen : Byte) (bytes : Bytes 8) : Bytes 16 :=
  let w : Bytes 4 := memWrite (Vector.replicate 4 0#8) 0 4 (by decide) idWord
  #v[w[0], w[1], w[2], w[3], dlen, 0#8, 0#8, 0#8,
     bytes[0], bytes[1], bytes[2], bytes[3], bytes[4], bytes[5], bytes[6], bytes[7]]

/-- What PACK of a frame ends with (R120). -/
def packFrame (q : Params) (rtr : Bit) (fc : BitVec 4) (node : BitVec 7) (dlen : Byte) (p : Payload) :
    Except Failure Completion :=
  if 8#8 < dlen then .error (.malformedDlc dlen)
  else if compatible (classOf q fc) p = false then .error (.variantMismatch fc)
  else .ok ⟨completionCode (classOf q fc), .packed (packImage (packIdWord rtr fc node) dlen (encBytes p))⟩

/-- PACK (R120). -/
def execPack (rtr : Bit) (fc : BitVec 4) (node : BitVec 7) (dlen : Byte) (p : Payload) (s : State) :
    Host.Outcome State Fault Refusal :=
  .next (finish s (packFrame s.params rtr fc node dlen p))

end Sys2Proof.Machine
end

