-- ==== Sys2Proof/Machine/Parse.lean ====
section
/-! DEFINITION. PARSE.INIT, PARSE.SEG and PARSE.GEN: classify, then decode, as one request (42_parse.md R180 to
R183). -/

namespace Sys2Proof.Machine

/-- What PARSE of an image in a phase ends with: the pseudocode the three operations share (R181 to R183). -/
def parseFrame (p : Params) (img : Bytes 16) (ph : Phase) : Except Failure Completion :=
  match frameFailure p img with
  | some f => .error f
  | none =>
    let hdr := frameHdr p img
    let pl := decPayload (classOf p hdr.fc) hdr.dlen hdr.raw ph
    .ok ⟨completionCode (classOf p hdr.fc), .parsed hdr pl (drv pl)⟩

/-- PARSE.INIT (R181). -/
def execParseInit (img : Bytes 16) (s : State) : Host.Outcome State Fault Refusal :=
  .next (finish s (parseFrame s.params img .init))

/-- PARSE.SEG (R182). -/
def execParseSeg (img : Bytes 16) (s : State) : Host.Outcome State Fault Refusal :=
  .next (finish s (parseFrame s.params img .seg))

/-- PARSE.GEN (R183). -/
def execParseGen (img : Bytes 16) (s : State) : Host.Outcome State Fault Refusal :=
  .next (finish s (parseFrame s.params img .gen))

end Sys2Proof.Machine
end

