-- ==== Sys2Proof/Machine/Dispatch.lean ====
section
/-! DEFINITION. One arm for each instruction, in the order of spec/opcode_table.json. -/

namespace Sys2Proof.Machine

def exec (i : Instr) (s : State) : Host.Outcome State Fault Refusal :=
  match i with
  | .classify img => Sys2Proof.Machine.execClassify img s
  | .decodeInit fc dlen b => Sys2Proof.Machine.execDecodeInit fc dlen b s
  | .parseInit img => Sys2Proof.Machine.execParseInit img s
  | .encode p => Sys2Proof.Machine.execEncode p s
  | .pack rtr fc node dlen p => Sys2Proof.Machine.execPack rtr fc node dlen p s
  | .decodeSeg fc dlen b => Sys2Proof.Machine.execDecodeSeg fc dlen b s
  | .parseSeg img => Sys2Proof.Machine.execParseSeg img s
  | .decodeGen fc dlen b => Sys2Proof.Machine.execDecodeGen fc dlen b s
  | .parseGen img => Sys2Proof.Machine.execParseGen img s

end Sys2Proof.Machine
end

