-- ==== Sys2Proof/Machine/Present.lean ====
section
/-! DEFINITION. What the block does with each thing the host does to it, and what a request ends with, the value
recorded with a failure included, which no register shows (60_exceptions.md R202; log entry 9). -/

namespace Sys2Proof.Machine

/-- The instruction of a request, or ILLEGAL_REQUEST with the command byte recorded (60_exceptions.md R206). -/
def acceptRequest (r : Request) : Except Failure Instr :=
  match decode r with
  | .ok i => .ok i
  | .error _ => .error (.illegalRequest r.cmd)

/-- A request: decoded first, so that ILLEGAL_REQUEST comes before every other condition (60_exceptions.md R206,
R209); an instruction is then executed in the same atomic step (70_reset_and_hazards.md R236). -/
def presentRequest (r : Request) (s : State) : Host.Outcome State Fault Refusal :=
  match acceptRequest r with
  | .ok i => exec i s
  | .error f => .next (raiseStatus s f)

/-- What each instruction's request ends with, from the parameters alone (10_state.md R27). -/
def outcomeOf (q : Params) : Instr → Except Failure Completion
  | .classify img => classify q img
  | .decodeInit fc dlen b => decodePayload q fc dlen b .init
  | .parseInit img => parseFrame q img .init
  | .encode p => encodePayload p
  | .pack rtr fc node dlen p => packFrame q rtr fc node dlen p
  | .decodeSeg fc dlen b => decodePayload q fc dlen b .seg
  | .parseSeg img => parseFrame q img .seg
  | .decodeGen fc dlen b => decodePayload q fc dlen b .gen
  | .parseGen img => parseFrame q img .gen

/-- What each request ends with, with the value recorded where it fails (R202, R203, R206, R207; log entry 9). -/
def requestOutcome (q : Params) (r : Request) : Except Failure Completion :=
  match acceptRequest r with
  | .ok i => outcomeOf q i
  | .error f => .error f

/-- One action of the host. -/
def present (a : HostAction) (s : State) : Host.Outcome State Fault Refusal :=
  match a with
  | .request r => presentRequest r s
  | .assertReset => .next (resetInput s)
  | .readRes => .next (readRes s)
  | .readStat => .next (readStat s)

/-- The host presents the next thing it does, before whatever else it was about to do. -/
def enqueueFirst (a : HostAction) (s : State) : State :=
  { s with host := a :: s.host }

end Sys2Proof.Machine
end

