-- ==== Sys2Proof/Machine/Step.lean ====
section
/-! DEFINITION. One step of the machine: the host's next action, wholly done (70_reset_and_hazards.md R236), in the
order the host presents them (20_memory.md R60). The block has no program counter and fetches nothing (10_state.md
R25): the host's action list stands where other machines have a program (log entries 1 and 2). -/

namespace Sys2Proof.Machine

/-- With nothing presented the block holds `RES` and `STAT` unchanged (60_exceptions.md R220; log entry 16). -/
def step (s : State) : Host.Outcome State Fault Refusal :=
  match s.host with
  | [] => .next s
  | a :: rest => present a { s with host := rest }

/-- `s` with the request of a table word presented as the host's very next action. -/
def State.withFetchWord (s : State) (nbits w : Nat) : State :=
  enqueueFirst (.request (tableRequest nbits w)) s

end Sys2Proof.Machine
end

