-- ==== Sys2Proof/Safety.lean ====
section
/-! DEFINITION. What every state of a sound run satisfies (10_state.md R23, R29, R37, R41): `STAT` and `RES` agree,
and a result held in `RES` is one that some request can have left there. No step stops; a run is safe
where no step is a model fault. -/

namespace Sys2Proof.Machine

/-- `RES` holds a value exactly where `STAT` is `{1, OK}` or `{1, UNKNOWN_FC}`; else `STAT` is one of the fatal
statuses or `{0, NONE}`. So no reserved code stands in `STAT`, and `valid` is right for the code (R23, R201). -/
def StatAgrees (s : State) : Prop :=
  match s.res with
  | some _ => s.stat = 0x10#5 ∨ s.stat = 0x13#5
  | none => s.stat = 0x01#5 ∨ s.stat = 0x02#5 ∨ s.stat = 0x04#5 ∨ s.stat = 0x05#5 ∨ s.stat = 0x0F#5

/-- The `STAT` value a completed request leaves for the class of its function code. -/
def statOfClass (cls : FcClass) : BitVec 5 := if cls = .unknown then 0x13#5 else 0x10#5

/-- A header's length is at most 8, its 11-bit identifier is `(fc << 7) | node`, and its tag and direction are
those of its function code's class (R29, R85). -/
def HdrCoherent (q : Params) (h : Hdr) : Prop :=
  h.dlen ≤ 8#8 ∧ h.id11 = (h.fc.setWidth 11 <<< 7) ||| h.node.setWidth 11 ∧
    h.msgType = typeTag (classOf q h.fc) ∧ h.sdoDir = sdoDirOf (classOf q h.fc)

/-- What holds of each kind of result, with the value `STAT` has beside it. -/
def ResultCoherent (q : Params) (stat : BitVec 5) : Result → Prop
  | .classified h => HdrCoherent q h ∧ stat = statOfClass (classOf q h.fc)
  | .decoded p d => d = drv p ∧ encLen p ≤ 8#8 ∧ (stat = 0x13#5 → ∃ b len, p = .opaqueRaw b len)
  | .parsed h p d =>
    HdrCoherent q h ∧ stat = statOfClass (classOf q h.fc) ∧ compatible (classOf q h.fc) p = true ∧ d = drv p ∧
      (∀ b len, p = .opaqueRaw b len → b = h.raw ∧ len = h.dlen)
  | .encoded _ len => len ≤ 8#8 ∧ stat = 0x10#5
  | .packed img =>
    imgDlc img ≤ 8#8 ∧ imgIdWord img &&& rsvIdMask = 0#32 ∧ img[5] = 0#8 ∧ img[6] = 0#8 ∧ img[7] = 0#8 ∧
      stat = statOfClass (classOf q (id11Fc (idId11 (imgIdWord img))))

/-- The invariant every step keeps. -/
def Inv (s : State) : Prop :=
  StatAgrees s ∧ ∀ r, s.res = some r → ResultCoherent s.params s.stat r

/-- The step from `s` is safe: it ends in a next state, and it is no read answered with the model fault of R21. -/
def StepSafe (s : State) : Prop :=
  ∃ t, step s = .next t ∧ ∀ rest, s.host = .readRes :: rest → t.readPort ≠ some .modelFault

end Sys2Proof.Machine
end

