-- ==== Sys2Proof/Certificates/Slice0/Obligations.lean ====
section
/-! DEFINITION. The statements about the model, for the provers. The helpers under `Sys2Proof.Claims` spell the
spec's tables and conditions out a second time, from the spec's words and not from the model's functions, so that a
statement written with them is not the model's own definition again. Where a rule is the spec's own decision
([decision: Dn]) or its own inference ([derived]) the docstring says so. -/

open Sys2Proof Sys2Proof.Machine

namespace Sys2Proof.Claims

/-- The table of R74: the nine legal command bytes and their names. -/
def commandTable : List (Byte × String) :=
  [(0x00#8, "CLASSIFY"), (0x01#8, "DECODE.INIT"), (0x09#8, "DECODE.SEG"), (0x11#8, "DECODE.GEN"),
   (0x02#8, "PARSE.INIT"), (0x0A#8, "PARSE.SEG"), (0x12#8, "PARSE.GEN"), (0x03#8, "ENCODE"), (0x04#8, "PACK")]

/-- A command byte of R74 beside an operand record of the type R75 gives it. -/
def legal (r : Request) : Bool :=
  match r.operand with
  | .rawImg _ => [0x00#8, 0x02#8, 0x0A#8, 0x12#8].contains r.cmd
  | .decIn _ _ _ => [0x01#8, 0x09#8, 0x11#8].contains r.cmd
  | .encIn _ => r.cmd == 0x03#8
  | .frameIn _ _ _ _ _ => r.cmd == 0x04#8

/-- A frame image passes the two checks of R111 and R113. -/
def frameOk (q : Params) (img : Bytes 16) : Prop :=
  img[4].toNat ≤ 8 ∧ (q.strictId = true → le32 img 0 &&& 0xBFFFF800#32 = 0#32)

/-- The payload vector of an image (R52). -/
def payloadBytes (img : Bytes 16) : Bytes 8 := Vector.ofFn fun k : Fin 8 => img[8 + k.val]

/-- The function code in an image's identifier field (R112). -/
def fcOf (img : Bytes 16) : BitVec 4 := (le32 img 0).extractLsb 10 7

/-- The tag of R85. -/
def tagOf (cls : FcClass) : BitVec 2 :=
  if cls = .nmtMc then 0b00#2 else if cls = .nmtNg then 0b01#2
  else if cls = .sdoRsp ∨ cls = .sdoReq then 0b10#2 else 0b11#2

/-- The status a completed request leaves for a class: `{1, OK}` or `{1, UNKNOWN_FC}` (R115, R201). -/
def doneStat (cls : FcClass) : BitVec 5 := if cls = .unknown then 0x13#5 else 0x10#5

/-- The header of an image, field by field (R112, R115, R116). -/
def headerOf (q : Params) (img : Bytes 16) : Hdr where
  rtr := (le32 img 0).extractLsb 30 30
  fc := fcOf img
  node := (le32 img 0).extractLsb 6 0
  id11 := (le32 img 0).extractLsb 10 0
  msgType := tagOf (classOf q (fcOf img))
  sdoDir := if classOf q (fcOf img) = .sdoReq then 1#1 else 0#1
  dlen := img[4]
  raw := payloadBytes img

/-- The initiate layout of R79 and R81. -/
def initOf (b : Bytes 8) : Payload :=
  .sdoInit (b[0].extractLsb 0 0) (b[0].extractLsb 1 1) (b[0].extractLsb 3 2) (b[0].extractLsb 4 4)
    (b[0].extractLsb 7 5) (b[2] ++ b[1]) b[3] #v[b[4], b[5], b[6], b[7]]

/-- The segment layout of R80 and R82. -/
def segOf (b : Bytes 8) : Payload :=
  .sdoSeg (b[0].extractLsb 0 0) (b[0].extractLsb 3 1) (b[0].extractLsb 4 4) (b[0].extractLsb 7 5)
    #v[b[1], b[2], b[3], b[4], b[5], b[6], b[7]]

/-- The generic/abort layout of R79 and R83. -/
def genOf (b : Bytes 8) : Payload :=
  .sdoGen (b[0].extractLsb 4 0) (b[0].extractLsb 7 5) (b[2] ++ b[1]) b[3] #v[b[4], b[5], b[6], b[7]]

/-- The payload of R155 for a class, with the SDO layout given. -/
def payloadOf (cls : FcClass) (dlen : Byte) (b : Bytes 8) (sdo : Payload) : Payload :=
  if cls = .nmtMc then .nmtMc b[0] b[1] else if cls = .nmtNg then .nmtNg b[0]
  else if cls = .sdoRsp ∨ cls = .sdoReq then sdo else .opaqueRaw b dlen

/-- A class that selects the SDO layouts. -/
def isSdo (cls : FcClass) : Prop := cls = .sdoRsp ∨ cls = .sdoReq

/-- `compatible(cls, p)` of R119. -/
def matchesClass (cls : FcClass) (p : Payload) : Bool :=
  match p with
  | .nmtMc _ _ => cls == .nmtMc
  | .nmtNg _ => cls == .nmtNg
  | .sdoInit _ _ _ _ _ _ _ _ => cls == .sdoRsp || cls == .sdoReq
  | .sdoSeg _ _ _ _ _ => cls == .sdoRsp || cls == .sdoReq
  | .sdoGen _ _ _ _ _ => cls == .sdoRsp || cls == .sdoReq
  | .opaqueRaw _ _ => cls == .opaqueClass || cls == .unknown

/-- The phase that reads a payload variant back (R162); any phase does for the variants that are not SDO. -/
def readsBack (p : Payload) (ph : Phase) : Prop :=
  match p with
  | .sdoInit _ _ _ _ _ _ _ _ => ph = .init
  | .sdoSeg _ _ _ _ _ => ph = .seg
  | .sdoGen _ _ _ _ _ => ph = .gen
  | .nmtMc _ _ => True
  | .nmtNg _ => True
  | .opaqueRaw _ _ => True

/-- DECODE in a phase. -/
def decodeIn : Phase → BitVec 4 → Byte → Bytes 8 → Instr
  | .init => .decodeInit
  | .seg => .decodeSeg
  | .gen => .decodeGen

/-- PARSE in a phase. -/
def parseIn : Phase → Bytes 16 → Instr
  | .init => .parseInit
  | .seg => .parseSeg
  | .gen => .parseGen

/-- The length a request carries is above 8 (R202). -/
def lengthBad : Operand → Bool
  | .rawImg img => decide (8 < img[4].toNat)
  | .decIn _ dlen _ => decide (8 < dlen.toNat)
  | .encIn p => match p with
    | .opaqueRaw _ len => decide (8 < len.toNat)
    | _ => false
  | .frameIn _ _ _ dlen _ => decide (8 < dlen.toNat)

/-- A reserved identifier bit is set and forbidden (R203). -/
def idBad (q : Params) : Operand → Bool
  | .rawImg img => q.strictId && (le32 img 0 &&& 0xBFFFF800#32 != 0#32)
  | .decIn _ _ _ => false
  | .encIn _ => false
  | .frameIn _ _ _ _ _ => false

/-- The payload variant is not the class's (R207). -/
def variantBad (q : Params) : Operand → Bool
  | .rawImg _ => false
  | .decIn _ _ _ => false
  | .encIn _ => false
  | .frameIn _ fc _ _ p => !matchesClass (classOf q fc) p

/-- The function code's class is `UNKNOWN` (R204); ENCODE has no function code. -/
def fcUnknown (q : Params) : Operand → Bool
  | .rawImg img => classOf q (fcOf img) == .unknown
  | .decIn fc _ _ => classOf q fc == .unknown
  | .encIn _ => false
  | .frameIn _ fc _ _ _ => classOf q fc == .unknown

/-- The command specifier of an SDO payload (R87). -/
def specifierOf : Payload → Option (BitVec 3)
  | .sdoInit _ _ _ _ cs _ _ _ => some cs
  | .sdoSeg _ _ _ cs _ => some cs
  | .sdoGen _ cs _ _ _ => some cs
  | .nmtMc _ _ => none
  | .nmtNg _ => none
  | .opaqueRaw _ _ => none

end Sys2Proof.Claims

open Sys2Proof.Claims

/-! Reset, the host's actions, the machine as a whole. -/

/-- R42 [decision D6]: after reset `RES = ⊥` and `STAT = 0b01111`, whatever the instance's parameters, which keep
their values. -/
def Obligations.ResetLeavesNoResultAndStatNone : Prop :=
  ∀ q : Params, (State.resetWith q).res = none ∧ (State.resetWith q).stat = 0b01111#5 ∧
    (State.resetWith q).params = q

/-- R230 [decision D6]: the reset input, at any time between requests, sets both registers to the values of R42.
That what the host has read and will do stays is the model's choice (log entry 15). -/
def Obligations.ResetInputSetsBothRegisters : Prop :=
  ∀ (s : State) (rest : List HostAction), s.host = .assertReset :: rest →
    step s = .next { s with res := none, stat := 0b01111#5, host := rest }

/-- A step executes the instruction its request decodes to, at that state less the request itself (R70, R236; the
host's list is the model's own, log entry 1). -/
def Obligations.StepExecutesTheDecodedRequest : Prop :=
  ∀ (s : State) (r : Request) (rest : List HostAction) (i : Instr),
    s.host = .request r :: rest → decode r = .ok i → step s = exec i { s with host := rest }

/-- R206 [decision D2]: a request whose command byte is not legal, or whose operand record is not of its type, raises
ILLEGAL_REQUEST, whatever else holds of it: `RES <- ⊥`, `STAT <- 0x04`, nothing else; and the value recorded is the
command byte (it stands in the request's outcome and in no register: log entry 9). -/
def Obligations.IllegalRequestRaisesItsStatus : Prop :=
  ∀ (s : State) (r : Request) (rest : List HostAction), s.host = .request r :: rest → legal r = false →
    step s = .next { s with res := none, stat := 0x04#5, host := rest } ∧
      requestOutcome s.params r = .error (.illegalRequest r.cmd)

/-- R74 [derived by the spec from R71 to R73]: the legal command bytes are exactly the nine of the table, each names its
own mnemonic, the other 247 raise ILLEGAL_REQUEST with any operand. -/
def Obligations.ExactlyNineCommandBytesAreLegal : Prop :=
  (∀ (c : Byte) (op : Op), decodeOp c = .ok op ↔ (c, op.mnemonic) ∈ commandTable) ∧
    (∀ c : Byte, c ∉ commandTable.map Prod.fst → ∀ (x : Operand) (s : State),
      presentRequest ⟨c, x⟩ s = .next (raiseStatus s (.illegalRequest c))) ∧
    ((List.range 256).filter fun n => !cmdLegal (BitVec.ofNat 8 n)).length = 247 ∧
    ∀ c : Byte, cmdLegal c = true ↔ c ∈ commandTable.map Prod.fst

/-- R75 [decision D1]: a command byte and an operand record decode exactly where the record is of the type the
operation takes. -/
def Obligations.RequestDecodesExactlyWhenLegal : Prop :=
  ∀ r : Request, (∃ i, decode r = .ok i) ↔ legal r = true

/-- Decode and encode agree, in both directions, for every instruction with every operand: no field of a request is
dropped, and no two requests are one instruction (R70, R93). -/
def Obligations.DecodeAndEncodeAgree : Prop :=
  ∀ (r : Request) (i : Instr), decode r = .ok i ↔ r = encode i

/-- Each command byte written out bit by bit from R71 to R73 (`RSV`, `PHASE`, `OP`) decodes to its instruction. -/
def Obligations.WrittenOutCommandBytesDecode : Prop :=
  ∀ (img : Bytes 16) (fc : BitVec 4) (dlen : Byte) (b : Bytes 8) (p : Payload) (rtr : Bit) (node : BitVec 7),
    decode ⟨0b000#3 ++ 0b00#2 ++ 0b000#3, .rawImg img⟩ = .ok (.classify img) ∧
    decode ⟨0b000#3 ++ 0b01#2 ++ 0b001#3, .decIn fc dlen b⟩ = .ok (.decodeSeg fc dlen b) ∧
    decode ⟨0b000#3 ++ 0b10#2 ++ 0b010#3, .rawImg img⟩ = .ok (.parseGen img) ∧
    decode ⟨0b000#3 ++ 0b00#2 ++ 0b011#3, .encIn p⟩ = .ok (.encode p) ∧
    decode ⟨0b000#3 ++ 0b00#2 ++ 0b100#3, .frameIn rtr fc node dlen p⟩ = .ok (.pack rtr fc node dlen p)

/-- Between requests the block holds `RES` and `STAT` unchanged (R220); that such a step exists is the model's choice
(log entry 16). -/
def Obligations.IdleBlockHoldsItsRegisters : Prop :=
  ∀ s : State, s.host = [] → step s = .next s

/-- A read of `RES` returns the result it holds; a read while `RES = ⊥` is a model fault and yields no value (R21 [decision
D3, D30]). Neither changes the block (R22, R220). Where the answer goes is the model's own (log entry 6), and that the
model fault is recorded there while the machine goes on is its DEDUCED reading (log entry 7). -/
def Obligations.HostReadOfResReturnsItOrFaults : Prop :=
  ∀ (s : State) (rest : List HostAction), s.host = .readRes :: rest →
    (∀ r, s.res = some r → step s = .next { s with readPort := some (.res r), host := rest }) ∧
      (s.res = none → step s = .next { s with readPort := some .modelFault, host := rest })

/-- A read of `STAT` returns its 5 bits, at any time, and changes neither register (R22 [decision D3, D4]; log
entry 6). -/
def Obligations.HostReadOfStatHasNoSideEffect : Prop :=
  ∀ (s : State) (rest : List HostAction), s.host = .readStat :: rest →
    step s = .next { s with readPort := some (.stat s.stat), host := rest }

/-- No step stops and none is refused, and a step is a model fault exactly where it is a read of `RES` that finds no
value. R21: "A read while `RES = ⊥` is a model fault and yields no value"; that the machine goes on after it is the model's
DEDUCED reading (log entry 7). -/
def Obligations.NoStepStopsAndOnlyAReadOfEmptyResFaults : Prop :=
  ∀ s : State, (∃ t, step s = .next t) ∧ (¬ StepSafe s ↔ s.res = none ∧ ∃ rest, s.host = .readRes :: rest)

/-- "Only a request or a reset changes it" (R22): a step that changes `STAT` or `RES` served a request or the reset
input. -/
def Obligations.OnlyARequestOrResetChangesRegisters : Prop :=
  ∀ s t : State, step s = .next t → t.stat ≠ s.stat ∨ t.res ≠ s.res →
    ∃ rest, s.host = .assertReset :: rest ∨ ∃ r, s.host = .request r :: rest

/-- R28 [decision D32]: no request and no reset, and no read either, changes the parameters. -/
def Obligations.NoStepChangesTheParameters : Prop :=
  ∀ s t : State, step s = .next t → t.params = s.params

/-- R27 [decision D3]: what a request leaves in `RES` and `STAT` depends on the request and the parameters alone: two
states that agree on the parameters, and on nothing else, get the same result and status. -/
def Obligations.OutcomeDependsOnRequestAndParametersOnly : Prop :=
  ∀ (r : Request) (s s' t t' : State), s.params = s'.params →
    presentRequest r s = .next t → presentRequest r s' = .next t' → t.res = t'.res ∧ t.stat = t'.stat

/-- R57: presenting the same request twice gives the same `RES` and `STAT` both times. -/
def Obligations.PresentingARequestTwiceChangesNothing : Prop :=
  ∀ (r : Request) (s t : State), presentRequest r s = .next t → presentRequest r t = .next t

/-- A host that runs one request after another finds the later one's result alone in `RES` and `STAT`, as if the
earlier one had never been presented (R60, R235 [derived]). -/
def Obligations.TheLaterRequestOverwritesTheEarlier : Prop :=
  ∀ (s : State) (r₁ r₂ : Request) (rest : List HostAction) (u : State),
    s.host = .request r₁ :: .request r₂ :: rest → Sys2Proof.core.run 2 s = .next u →
      presentRequest r₂ { s with host := rest } = .next u

/-- The frame of all nine instructions, for every operand and every state: each ends, writes `RES` and `STAT`
together (a result with `valid = 1`, or no result with `valid = 0`), and changes nothing else (R20, R70, R210, R236). -/
def Obligations.EveryInstructionWritesResAndStatOnly : Prop :=
  ∀ (i : Instr) (s : State), ∃ (v : Option Result) (c : BitVec 5),
    exec i s = .next { s with res := v, stat := c } ∧ (v.isSome = true ↔ statValid c = 1#1)

/-- From every state, reachable or not, a request leaves `STAT.valid = 1` exactly where the code is OK or UNKNOWN_FC,
which is exactly where `RES` holds a value (R23 [derived], R201). -/
def Obligations.ValidExactlyWhenResHoldsAResult : Prop :=
  ∀ (r : Request) (s t : State), presentRequest r s = .next t →
    (statValid t.stat = 1#1 ↔ statCode t.stat = 0x0#4 ∨ statCode t.stat = 0x3#4) ∧
      (t.res ≠ none ↔ statValid t.stat = 1#1)

/-- R209 [decision D5]: when several conditions hold, the one status reported is the first that applies:
ILLEGAL_REQUEST, MALFORMED_DLC, MALFORMED_ID, VARIANT_MISMATCH, UNKNOWN_FC, OK. -/
def Obligations.StatusIsTheFirstThatApplies : Prop :=
  ∀ (r : Request) (s t : State), presentRequest r s = .next t →
    t.stat =
      bif !legal r then 0x04#5
      else bif lengthBad r.operand then 0x01#5
      else bif idBad s.params r.operand then 0x02#5
      else bif variantBad s.params r.operand then 0x05#5
      else bif fcUnknown s.params r.operand then 0x13#5
      else 0x10#5

/-- Which operation can end with which status, the table of R208 [derived]: MALFORMED_ID only from CLASSIFY and PARSE
and only where `P_STRICT_ID` is true, VARIANT_MISMATCH only from PACK, and ENCODE never UNKNOWN_FC. -/
def Obligations.EachOperationsPossibleStatuses : Prop :=
  ∀ (i : Instr) (s t : State), exec i s = .next t →
    match i with
    | .classify _ | .parseInit _ | .parseSeg _ | .parseGen _ =>
      t.stat ∈ [0x10#5, 0x01#5, 0x13#5] ∨ (s.params.strictId = true ∧ t.stat = 0x02#5)
    | .decodeInit _ _ _ | .decodeSeg _ _ _ | .decodeGen _ _ _ => t.stat ∈ [0x10#5, 0x01#5, 0x13#5]
    | .encode p => t.stat = 0x10#5 ∨ (t.stat = 0x01#5 ∧ ∃ b len, p = .opaqueRaw b len)
    | .pack _ _ _ _ _ => t.stat ∈ [0x10#5, 0x01#5, 0x13#5, 0x05#5]

/-- The invariant holds right after reset, for every setting of the parameters. -/
def Obligations.InvariantHoldsAtReset : Prop :=
  ∀ q : Params, Inv (State.resetWith q)

/-- Every step from a state that meets the invariant, reached or not, gives a state that meets it: `STAT` and `RES`
agree and hold no reserved code (R23, R41), a header's length is at most 8, its identifier is `(fc << 7) | node` and its
tag is its class's (R29, R85), the payload is the one its class selects (R30), the derived fields are the payload's
(R37), and a packed image has no reserved bit and zero padding (R66). -/
def Obligations.EveryStepKeepsTheInvariant : Prop :=
  ∀ s t : State, Inv s → step s = .next t → Inv t

/-! CLASSIFY and the frame checks. -/

/-- CLASSIFY of a frame that passes both checks completes with the header of R112, R115 and R116, tagged by R85, and
changes nothing else. -/
def Obligations.ClassifyCompletesWithTheHeader : Prop :=
  ∀ (img : Bytes 16) (s : State), frameOk s.params img →
    exec (.classify img) s = .next { s with
      res := some (.classified (headerOf s.params img)), stat := doneStat (classOf s.params (fcOf img)) }

/-- R111 and R202: a length above 8 in a frame image, a DECODE operand, a PACK frame or an opaque payload raises
MALFORMED_DLC with that length (`RES <- ⊥`, `STAT <- 0x01`, nothing else), whatever else holds; with a length of 0 to 8
none of these requests does, nor does ENCODE of any other payload. -/
def Obligations.LengthsAboveEightAreMalformed : Prop :=
  (∀ (img : Bytes 16) (s : State), 8 < img[4].toNat →
    (∀ i ∈ [Instr.classify img, .parseInit img, .parseSeg img, .parseGen img],
      exec i s = .next { s with res := none, stat := 0x01#5 }) ∧
    classify s.params img = .error (.malformedDlc img[4]) ∧
    ∀ ph, parseFrame s.params img ph = .error (.malformedDlc img[4])) ∧
  (∀ (img : Bytes 16) (s t : State), img[4].toNat ≤ 8 →
    ∀ i ∈ [Instr.classify img, .parseInit img, .parseSeg img, .parseGen img], exec i s = .next t → t.stat ≠ 0x01#5) ∧
  (∀ (fc : BitVec 4) (dlen : Byte) (b : Bytes 8) (s : State), 8 < dlen.toNat →
    (∀ ph, exec (decodeIn ph fc dlen b) s = .next { s with res := none, stat := 0x01#5 }) ∧
    ∀ ph, decodePayload s.params fc dlen b ph = .error (.malformedDlc dlen)) ∧
  (∀ (fc : BitVec 4) (dlen : Byte) (b : Bytes 8) (ph : Phase) (s t : State), dlen.toNat ≤ 8 →
    exec (decodeIn ph fc dlen b) s = .next t → t.stat ≠ 0x01#5) ∧
  (∀ (b : Bytes 8) (len : Byte) (s : State), 8 < len.toNat →
    exec (.encode (.opaqueRaw b len)) s = .next { s with res := none, stat := 0x01#5 } ∧
    encodePayload (.opaqueRaw b len) = .error (.malformedDlc len)) ∧
  (∀ (p : Payload) (s t : State), (∀ b len, p = .opaqueRaw b len → len.toNat ≤ 8) →
    exec (.encode p) s = .next t → t.stat ≠ 0x01#5) ∧
  (∀ (rtr : Bit) (fc : BitVec 4) (node : BitVec 7) (dlen : Byte) (p : Payload) (s : State), 8 < dlen.toNat →
    exec (.pack rtr fc node dlen p) s = .next { s with res := none, stat := 0x01#5 } ∧
    packFrame s.params rtr fc node dlen p = .error (.malformedDlc dlen)) ∧
  (∀ (rtr : Bit) (fc : BitVec 4) (node : BitVec 7) (dlen : Byte) (p : Payload) (s t : State), dlen.toNat ≤ 8 →
    exec (.pack rtr fc node dlen p) s = .next t → t.stat ≠ 0x01#5)

/-- R113 [decision D8]: with `P_STRICT_ID` a reserved identifier bit raises MALFORMED_ID with the identifier word;
without it no bit outside bits 30 and 10:0 affects any result. -/
def Obligations.ReservedIdentifierBitsMatterOnlyWhenStrict : Prop :=
  (∀ (img : Bytes 16) (s : State), s.params.strictId = true → img[4].toNat ≤ 8 →
    le32 img 0 &&& 0xBFFFF800#32 ≠ 0#32 →
    (∀ i ∈ [Instr.classify img, .parseInit img, .parseSeg img, .parseGen img],
      exec i s = .next { s with res := none, stat := 0x02#5 }) ∧
    classify s.params img = .error (.malformedId (le32 img 0)) ∧
    ∀ ph, parseFrame s.params img ph = .error (.malformedId (le32 img 0))) ∧
  (∀ (img img' : Bytes 16) (s : State), s.params.strictId = false →
    le32 img 0 &&& 0x400007FF#32 = le32 img' 0 &&& 0x400007FF#32 →
    (∀ (k : Nat) (h : k < 16), 4 ≤ k → img[k] = img'[k]) →
    exec (.classify img) s = exec (.classify img') s ∧
      ∀ ph, exec (parseIn ph img) s = exec (parseIn ph img') s)

/-- R91 [decision D24]: the 3 padding bytes never matter to CLASSIFY or PARSE, in either mode of `P_STRICT_ID`, and PACK
writes them as zero. -/
def Obligations.PaddingIsIgnoredAndWrittenAsZero : Prop :=
  (∀ (img img' : Bytes 16) (s : State),
    (∀ (k : Nat) (h : k < 16), ¬(5 ≤ k ∧ k ≤ 7) → img[k] = img'[k]) →
    exec (.classify img) s = exec (.classify img') s ∧
      ∀ ph, exec (parseIn ph img) s = exec (parseIn ph img') s) ∧
  (∀ (rtr : Bit) (fc : BitVec 4) (node : BitVec 7) (dlen : Byte) (p : Payload) (s t : State) (img : Bytes 16),
    exec (.pack rtr fc node dlen p) s = .next t → t.res = some (.packed img) →
    img[5] = 0#8 ∧ img[6] = 0#8 ∧ img[7] = 0#8)

/-- R65 [derived]: the header's identifier fields stand at the byte positions of the image that R65 lists. -/
def Obligations.IdentifierFieldsReadAsBytes : Prop :=
  ∀ (img : Bytes 16) (s t : State) (h : Hdr), exec (.classify img) s = .next t → t.res = some (.classified h) →
    h.node = img[0].extractLsb 6 0 ∧
      h.fc.toNat = 2 * (img[1].toNat % 8) + img[0].toNat / 128 ∧
      h.rtr = img[3].extractLsb 6 6 ∧
      h.id11.toNat = 128 * h.fc.toNat + h.node.toNat

/-- R118 [derived]: for every function code and node id and every parameter setting, CLASSIFY of an image whose
identifier field is `(f << 7) | n` completes with exactly those. -/
def Obligations.ClassifySplitsEveryIdentifier : Prop :=
  ∀ (f : BitVec 4) (n : BitVec 7) (img : Bytes 16) (s : State),
    le32 img 0 = (f.setWidth 32 <<< 7) ||| n.setWidth 32 → img[4].toNat ≤ 8 →
    ∃ h : Hdr, exec (.classify img) s = .next { s with
        res := some (.classified h), stat := doneStat (classOf s.params f) } ∧
      h.fc = f ∧ h.node = n ∧ h.id11.setWidth 32 = le32 img 0 ∧ h.rtr = 0#1

/-- The payload bytes of an image never decide a status, nor any header field but `raw`: so no claim about those rests
on the bytes at index `dlc` and above, which the transport leaves undefined (R52, R239; log entry 8). Said of CLASSIFY
and of PARSE in every phase. -/
def Obligations.PayloadBytesNeverDecideStatusOrHeader : Prop :=
  ∀ (img img' : Bytes 16) (s t t' : State), (∀ (k : Nat) (h : k < 5), img[k] = img'[k]) →
    exec (.classify img) s = .next t → exec (.classify img') s = .next t' →
    t.stat = t'.stat ∧ (t.res = none ↔ t'.res = none) ∧
      (∀ h h' : Hdr, t.res = some (.classified h) → t'.res = some (.classified h') →
        { h with raw := h'.raw } = h') ∧
      ∀ (ph : Phase) (u u' : State), exec (parseIn ph img) s = .next u → exec (parseIn ph img') s = .next u' →
        u.stat = u'.stat ∧ u.stat = t.stat ∧ (u.res = none ↔ u'.res = none) ∧
          ∀ (h h' : Hdr) (p p' : Payload) (d d' : Drv), u.res = some (.parsed h p d) →
            u'.res = some (.parsed h' p' d') → { h with raw := h'.raw } = h'

/-- The default class table of R84, which the spec marks as general knowledge (D9; log entry 4). -/
def Obligations.DefaultClassesFollowThePredefinedSet : Prop :=
  ∀ fc : BitVec 4, classOf Params.default fc =
    if fc = 0x0#4 then .nmtMc else if fc = 0xB#4 then .sdoRsp else if fc = 0xC#4 then .sdoReq
    else if fc = 0xE#4 then .nmtNg else if fc = 0xD#4 ∨ fc = 0xF#4 then .unknown else .opaqueClass

/-! DECODE. -/

/-- An NMT command's bytes decode to its two fields in every phase (R142; the byte positions are general knowledge the
spec decides on, D15, log entry 13). -/
def Obligations.DecodeReadsAnNmtCommand : Prop :=
  ∀ (fc : BitVec 4) (dlen : Byte) (b : Bytes 8) (s : State), dlen.toNat ≤ 8 → classOf s.params fc = .nmtMc →
    ∀ i ∈ [Instr.decodeInit fc dlen b, .decodeSeg fc dlen b, .decodeGen fc dlen b],
      exec i s = .next { s with res := some (.decoded (.nmtMc b[0] b[1]) .drvNone), stat := 0x10#5 }

/-- A node-guard or heartbeat reply decodes to its state byte, with the toggle bit and the 7-bit state beside it, in
every phase (R143, R148; general knowledge the spec decides on, D15, D20, log entry 13). -/
def Obligations.DecodeReadsANodeGuardReply : Prop :=
  ∀ (fc : BitVec 4) (dlen : Byte) (b : Bytes 8) (s : State), dlen.toNat ≤ 8 → classOf s.params fc = .nmtNg →
    ∀ i ∈ [Instr.decodeInit fc dlen b, .decodeSeg fc dlen b, .decodeGen fc dlen b],
      exec i s = .next { s with
        res := some (.decoded (.nmtNg b[0]) (.drvNg (b[0].extractLsb 7 7) (b[0].extractLsb 6 0))), stat := 0x10#5 }

/-- R147 [decision D11]: the classes OPAQUE and UNKNOWN decode to the opaque variant, all 8 bytes and the length, in every
phase. -/
def Obligations.DecodePassesOpaquePayloadsThrough : Prop :=
  ∀ (fc : BitVec 4) (dlen : Byte) (b : Bytes 8) (s : State), dlen.toNat ≤ 8 →
    classOf s.params fc = .opaqueClass ∨ classOf s.params fc = .unknown →
    ∀ i ∈ [Instr.decodeInit fc dlen b, .decodeSeg fc dlen b, .decodeGen fc dlen b],
      exec i s = .next { s with
        res := some (.decoded (.opaqueRaw b dlen) .drvNone), stat := doneStat (classOf s.params fc) }

/-- DECODE.INIT of an SDO payload: the fields of R144 [decision D12], the expedited length and value of R150 and the size
of R151 [decision D20]. That `e = 1, s = 0` gives length 4 is the spec's own choice (log entry 14). -/
def Obligations.DecodeInitReadsTheInitiateLayout : Prop :=
  ∀ (fc : BitVec 4) (dlen : Byte) (b : Bytes 8) (s : State), dlen.toNat ≤ 8 → isSdo (classOf s.params fc) →
    ∃ (len : BitVec 3) (value : Word) (sized : Bit) (size : Word),
      exec (.decodeInit fc dlen b) s = .next { s with
        res := some (.decoded (initOf b) (.drvInit (b[7] ++ b[6] ++ b[5] ++ b[4]) len value sized size)),
        stat := 0x10#5 } ∧
      len.toNat = (if b[0].getLsbD 1 then (if b[0].getLsbD 0 then 4 - b[0].toNat / 4 % 4 else 4) else 0) ∧
      value.toNat = (b[7] ++ b[6] ++ b[5] ++ b[4]).toNat % 256 ^ len.toNat ∧
      (sized = 1#1 ↔ b[0].getLsbD 1 = false ∧ b[0].getLsbD 0 = true) ∧
      size = if sized = 1#1 then b[7] ++ b[6] ++ b[5] ++ b[4] else 0#32

/-- DECODE.SEG of an SDO payload: the fields of R145 [decision D12, D19] and the segment length and final flag of R152
[derived]. -/
def Obligations.DecodeSegReadsTheSegmentLayout : Prop :=
  ∀ (fc : BitVec 4) (dlen : Byte) (b : Bytes 8) (s : State), dlen.toNat ≤ 8 → isSdo (classOf s.params fc) →
    ∃ len : BitVec 3,
      exec (.decodeSeg fc dlen b) s = .next { s with
        res := some (.decoded (segOf b) (.drvSeg len (b[0].extractLsb 0 0))), stat := 0x10#5 } ∧
      len.toNat + b[0].toNat / 2 % 8 = 7

/-- DECODE.GEN of an SDO payload: the fields of R146 [decision D12] and the abort flag and code of R153 [decision D20]. -/
def Obligations.DecodeGenReadsTheGenericLayout : Prop :=
  ∀ (fc : BitVec 4) (dlen : Byte) (b : Bytes 8) (s : State), dlen.toNat ≤ 8 → isSdo (classOf s.params fc) →
    exec (.decodeGen fc dlen b) s = .next { s with
      res := some (.decoded (genOf b) (.drvGen (b[7] ++ b[6] ++ b[5] ++ b[4])
        (if b[0].toNat / 32 = 4 then 1#1 else 0#1)
        (if b[0].toNat / 32 = 4 then b[7] ++ b[6] ++ b[5] ++ b[4] else 0#32))),
      stat := 0x10#5 }

/-- R141 [decision D22]: the phase alone selects the layout, so the same bytes give three different variants; where the
class is not SDO the phase has no effect. -/
def Obligations.ThePhaseAloneSelectsTheLayout : Prop :=
  ∀ (fc : BitVec 4) (dlen : Byte) (b : Bytes 8) (s : State),
    (isSdo (classOf s.params fc) → dlen.toNat ≤ 8 →
      (∃ d t, exec (.decodeInit fc dlen b) s = .next t ∧ t.res = some (.decoded (initOf b) d)) ∧
      (∃ d t, exec (.decodeSeg fc dlen b) s = .next t ∧ t.res = some (.decoded (segOf b) d)) ∧
      (∃ d t, exec (.decodeGen fc dlen b) s = .next t ∧ t.res = some (.decoded (genOf b) d)) ∧
      initOf b ≠ segOf b ∧ segOf b ≠ genOf b ∧ genOf b ≠ initOf b) ∧
    (¬ isSdo (classOf s.params fc) →
      exec (.decodeInit fc dlen b) s = exec (.decodeSeg fc dlen b) s ∧
      exec (.decodeSeg fc dlen b) s = exec (.decodeGen fc dlen b) s)

/-- R87 [derived]: whatever the phase, an SDO payload's command specifier is reported, and it is `b[0][7:5]`. -/
def Obligations.CommandSpecifierIsReportedInEveryPhase : Prop :=
  ∀ (ph : Phase) (fc : BitVec 4) (dlen : Byte) (b : Bytes 8) (s : State), dlen.toNat ≤ 8 →
    isSdo (classOf s.params fc) →
    ∃ (p : Payload) (d : Drv) (t : State), exec (decodeIn ph fc dlen b) s = .next t ∧
      t.res = some (.decoded p d) ∧ specifierOf p = some (b[0].extractLsb 7 5)

/-- R238 [derived]: a host that reads `cs = 4` in a segment decode finds the abort code by decoding the same bytes again
in GEN. -/
def Obligations.AnAbortSeenInASegmentRereadsInGen : Prop :=
  ∀ (fc : BitVec 4) (dlen : Byte) (b : Bytes 8) (s t : State) (p : Payload) (d : Drv),
    isSdo (classOf s.params fc) → exec (.decodeSeg fc dlen b) s = .next t → t.res = some (.decoded p d) →
    specifierOf p = some 4#3 →
    ∃ u, exec (.decodeGen fc dlen b) t = .next u ∧
      u.res = some (.decoded (genOf b)
        (.drvGen (b[7] ++ b[6] ++ b[5] ++ b[4]) 1#1 (b[7] ++ b[6] ++ b[5] ++ b[4])))

/-- R237 [derived]: a wrong phase is not detected: the segment byte 0x1B decoded as INIT gives the initiate fields it
happens to spell, with status OK. -/
def Obligations.AWrongPhaseGoesUndetected : Prop :=
  ∀ (fc : BitVec 4) (dlen : Byte) (b : Bytes 8) (s : State), dlen.toNat ≤ 8 → isSdo (classOf s.params fc) →
    b[0] = 0x1B#8 →
    ∃ (d : Drv) (t : State), exec (.decodeInit fc dlen b) s = .next t ∧ t.stat = 0x10#5 ∧
      t.res = some (.decoded (.sdoInit 1#1 1#1 2#2 1#1 0#3 (b[2] ++ b[1]) b[3] #v[b[4], b[5], b[6], b[7]]) d)

/-- R204 [decision D11]: a function code of class UNKNOWN is no failure: CLASSIFY, PARSE, DECODE and PACK complete with
`STAT = {1, UNKNOWN_FC}` and a result of tag 0b11 or the opaque variant; ENCODE never reports it. -/
def Obligations.UnknownFunctionCodesPassThrough : Prop :=
  (∀ (img : Bytes 16) (s : State), frameOk s.params img → classOf s.params (fcOf img) = .unknown →
    (∃ h, exec (.classify img) s = .next { s with res := some (.classified h), stat := 0x13#5 } ∧
      h.msgType = 0b11#2) ∧
    ∀ ph, ∃ h b len d, exec (parseIn ph img) s =
      .next { s with res := some (.parsed h (.opaqueRaw b len) d), stat := 0x13#5 }) ∧
  (∀ (fc : BitVec 4) (dlen : Byte) (b : Bytes 8) (s : State), dlen.toNat ≤ 8 → classOf s.params fc = .unknown →
    ∀ ph, ∃ b' len d, exec (decodeIn ph fc dlen b) s =
      .next { s with res := some (.decoded (.opaqueRaw b' len) d), stat := 0x13#5 }) ∧
  (∀ (rtr : Bit) (fc : BitVec 4) (node : BitVec 7) (dlen : Byte) (b : Bytes 8) (len : Byte) (s : State),
    dlen.toNat ≤ 8 → classOf s.params fc = .unknown →
    ∃ img, exec (.pack rtr fc node dlen (.opaqueRaw b len)) s =
      .next { s with res := some (.packed img), stat := 0x13#5 }) ∧
  (∀ (p : Payload) (s t : State), exec (.encode p) s = .next t → t.stat ≠ 0x13#5)

/-! PARSE. -/

/-- PARSE of a frame that passes both checks completes with CLASSIFY's header and the payload its class and phase
select, with its derived fields, and changes nothing else (R180 to R183, R155). -/
def Obligations.ParseCompletesWithHeaderAndPayload : Prop :=
  ∀ (img : Bytes 16) (s : State), frameOk s.params img →
    let cls := classOf s.params (fcOf img)
    let p := payloadOf cls img[4] (payloadBytes img)
    (exec (.parseInit img) s = .next { s with
      res := some (.parsed (headerOf s.params img) (p (initOf (payloadBytes img))) (drv (p (initOf (payloadBytes img))))),
      stat := doneStat cls }) ∧
    (exec (.parseSeg img) s = .next { s with
      res := some (.parsed (headerOf s.params img) (p (segOf (payloadBytes img))) (drv (p (segOf (payloadBytes img))))),
      stat := doneStat cls }) ∧
    (exec (.parseGen img) s = .next { s with
      res := some (.parsed (headerOf s.params img) (p (genOf (payloadBytes img))) (drv (p (genOf (payloadBytes img))))),
      stat := doneStat cls })

/-- R184 [derived]: PARSE is CLASSIFY and then DECODE of the header it gives: the same failure, or the same code and both
results together. -/
def Obligations.ParseIsClassifyThenDecode : Prop :=
  ∀ (img : Bytes 16) (ph : Phase) (s t : State), exec (.classify img) s = .next t →
    (t.res = none → exec (parseIn ph img) s = .next t) ∧
    (∀ hdr, t.res = some (.classified hdr) →
      ∃ (p : Payload) (d : Drv),
        exec (decodeIn ph hdr.fc hdr.dlen hdr.raw) t = .next { t with res := some (.decoded p d) } ∧
        exec (parseIn ph img) s = .next { t with res := some (.parsed hdr p d) })

/-! ENCODE and PACK. -/

/-- ENCODE of an SDO payload completes with the 8 bytes of its layout (R81 to R83, R159 [decision D12, D17]) and length 8
(R160, general knowledge, log entry 13); data bytes the value does not use are written as given (R161). -/
def Obligations.EncodeWritesTheSdoLayouts : Prop :=
  (∀ (z e : Bit) (n : BitVec 2) (x : Bit) (cs : BitVec 3) (index : BitVec 16) (sub : Byte) (data : Bytes 4) (s : State),
    ∃ c : Byte, exec (.encode (.sdoInit z e n x cs index sub data)) s = .next { s with
        res := some (.encoded #v[c, BitVec.ofNat 8 index.toNat, BitVec.ofNat 8 (index.toNat / 256), sub,
          data[0], data[1], data[2], data[3]] 8#8), stat := 0x10#5 } ∧
      c.toNat = 32 * cs.toNat + 16 * x.toNat + 4 * n.toNat + 2 * e.toNat + z.toNat) ∧
  (∀ (z : Bit) (n : BitVec 3) (t : Bit) (cs : BitVec 3) (seg : Bytes 7) (s : State),
    ∃ c : Byte, exec (.encode (.sdoSeg z n t cs seg)) s = .next { s with
        res := some (.encoded #v[c, seg[0], seg[1], seg[2], seg[3], seg[4], seg[5], seg[6]] 8#8), stat := 0x10#5 } ∧
      c.toNat = 32 * cs.toNat + 16 * t.toNat + 2 * n.toNat + z.toNat) ∧
  (∀ (rsv : BitVec 5) (cs : BitVec 3) (index : BitVec 16) (sub : Byte) (data : Bytes 4) (s : State),
    ∃ c : Byte, exec (.encode (.sdoGen rsv cs index sub data)) s = .next { s with
        res := some (.encoded #v[c, BitVec.ofNat 8 index.toNat, BitVec.ofNat 8 (index.toNat / 256), sub,
          data[0], data[1], data[2], data[3]] 8#8), stat := 0x10#5 } ∧
      c.toNat = 32 * cs.toNat + rsv.toNat)

/-- ENCODE of the NMT and opaque variants: their fields, zeros where no field stands (R159), and the lengths 2, 1 and the
payload's own (R160; 2 and 1 are general knowledge, log entry 13). -/
def Obligations.EncodeWritesNmtAndOpaquePayloads : Prop :=
  ∀ s : State,
    (∀ cs node : Byte, exec (.encode (.nmtMc cs node)) s = .next { s with
      res := some (.encoded #v[cs, node, 0, 0, 0, 0, 0, 0] 2#8), stat := 0x10#5 }) ∧
    (∀ st : Byte, exec (.encode (.nmtNg st)) s = .next { s with
      res := some (.encoded #v[st, 0, 0, 0, 0, 0, 0, 0] 1#8), stat := 0x10#5 }) ∧
    (∀ (b : Bytes 8) (len : Byte), len.toNat ≤ 8 → exec (.encode (.opaqueRaw b len)) s = .next { s with
      res := some (.encoded b len), stat := 0x10#5 })

/-- R90 [decision D12]: the reserved bits `x` and `rsv` are never checked, are kept on decode, and are written back on
encode. -/
def Obligations.ReservedPayloadBitsAreKeptVerbatim : Prop :=
  ∀ (fc : BitVec 4) (dlen : Byte) (b : Bytes 8) (s : State), dlen.toNat ≤ 8 → isSdo (classOf s.params fc) →
    ∀ ph ∈ [Phase.init, Phase.gen],
      ∃ (p : Payload) (d : Drv) (t u : State) (out : Bytes 8) (len : Byte),
        exec (decodeIn ph fc dlen b) s = .next t ∧ t.res = some (.decoded p d) ∧ t.stat = 0x10#5 ∧
        exec (.encode p) t = .next u ∧ u.res = some (.encoded out len) ∧
        out[0] = b[0] ∧
        match p with
        | .sdoInit _ _ _ x _ _ _ _ => x = b[0].extractLsb 4 4 ∧ x = out[0].extractLsb 4 4
        | .sdoGen rsv _ _ _ _ => rsv = b[0].extractLsb 4 0 ∧ rsv = out[0].extractLsb 4 0
        | _ => False

/-- R120: PACK of a frame whose length is at most 8 and whose payload is the class's variant (R119) completes with the
image of R66; a length above 8 fails first, then a variant that does not match. -/
def Obligations.PackBuildsTheFrameImage : Prop :=
  ∀ (rtr : Bit) (fc : BitVec 4) (node : BitVec 7) (dlen : Byte) (p : Payload) (s : State),
    (dlen.toNat ≤ 8 → matchesClass (classOf s.params fc) p = true →
      ∃ img : Bytes 16, exec (.pack rtr fc node dlen p) s = .next { s with
          res := some (.packed img), stat := doneStat (classOf s.params fc) } ∧
        (le32 img 0).toNat = 2 ^ 30 * rtr.toNat + 2 ^ 7 * fc.toNat + node.toNat ∧
        img[4] = dlen ∧ img[5] = 0#8 ∧ img[6] = 0#8 ∧ img[7] = 0#8 ∧ payloadBytes img = encBytes p) ∧
    (8 < dlen.toNat → exec (.pack rtr fc node dlen p) s = .next { s with res := none, stat := 0x01#5 } ∧
      packFrame s.params rtr fc node dlen p = .error (.malformedDlc dlen)) ∧
    (dlen.toNat ≤ 8 → matchesClass (classOf s.params fc) p = false →
      exec (.pack rtr fc node dlen p) s = .next { s with res := none, stat := 0x05#5 } ∧
      packFrame s.params rtr fc node dlen p = .error (.variantMismatch fc))

/-! The round-trip laws. -/

/-- R162 [derived], the source's `decode(encode(p)) == p`: ENCODE and then DECODE, in the phase that reads the variant
back, under any function code whose class the payload matches, gives the payload and its derived fields. -/
def Obligations.DecodeAfterEncodeGivesThePayload : Prop :=
  ∀ (p : Payload) (fc : BitVec 4) (ph : Phase) (s : State),
    (∀ b len, p = .opaqueRaw b len → len.toNat ≤ 8) → matchesClass (classOf s.params fc) p = true → readsBack p ph →
    ∃ (t u : State) (bytes : Bytes 8) (len : Byte),
      exec (.encode p) s = .next t ∧ t.res = some (.encoded bytes len) ∧
      exec (decodeIn ph fc len bytes) t = .next u ∧ u.res = some (.decoded p (drv p))

/-- R163 [derived]: DECODE and then ENCODE gives all 8 bytes back for the SDO and opaque variants, and the variant's own
bytes followed by zeros for the NMT variants. -/
def Obligations.EncodeAfterDecodeGivesTheBytes : Prop :=
  ∀ (fc : BitVec 4) (dlen : Byte) (b : Bytes 8) (ph : Phase) (s : State), dlen.toNat ≤ 8 →
    ∃ (t u : State) (p : Payload) (d : Drv) (out : Bytes 8) (len : Byte),
      exec (decodeIn ph fc dlen b) s = .next t ∧ t.res = some (.decoded p d) ∧
      exec (.encode p) t = .next u ∧ u.res = some (.encoded out len) ∧
      match p with
      | .nmtMc _ _ => out = #v[b[0], b[1], 0, 0, 0, 0, 0, 0]
      | .nmtNg _ => out = #v[b[0], 0, 0, 0, 0, 0, 0, 0]
      | _ => out = b

/-- R121 [derived]: PARSE in any phase and then PACK of what it gave reproduces the meaningful identifier bits, the length,
zero padding, and the payload bytes (for the NMT variants, those its fields hold, then zeros). -/
def Obligations.PackAfterParseGivesTheFrame : Prop :=
  ∀ (img : Bytes 16) (ph : Phase) (s : State), frameOk s.params img →
    ∃ (t u : State) (hdr : Hdr) (p : Payload) (d : Drv) (img' : Bytes 16),
      exec (parseIn ph img) s = .next t ∧ t.res = some (.parsed hdr p d) ∧
      exec (.pack hdr.rtr hdr.fc hdr.node hdr.dlen p) t = .next u ∧ u.res = some (.packed img') ∧
      le32 img' 0 = le32 img 0 &&& 0x400007FF#32 ∧ img'[4] = img[4] ∧
      img'[5] = 0#8 ∧ img'[6] = 0#8 ∧ img'[7] = 0#8 ∧
      match p with
      | .nmtMc _ _ => payloadBytes img' = #v[img[8], img[9], 0, 0, 0, 0, 0, 0]
      | .nmtNg _ => payloadBytes img' = #v[img[8], 0, 0, 0, 0, 0, 0, 0]
      | _ => payloadBytes img' = payloadBytes img
end

