-- ==== Sys2Proof/Laws/State.lean ====
section
/-! SUPPORT. One lemma for each field of State after each operation that updates it, all true by unfolding the update
once here; and the 5-bit values of `STAT`, so that no later proof unfolds the composition of the register. -/

namespace Sys2Proof.Machine

variable (s : State)

@[simp] theorem raiseStatus_res (f : Failure) : (raiseStatus s f).res = none := rfl
@[simp] theorem raiseStatus_stat (f : Failure) : (raiseStatus s f).stat = packStat 0#1 (codeNum (failureCode f)) := rfl
@[simp] theorem raiseStatus_params (f : Failure) : (raiseStatus s f).params = s.params := rfl
@[simp] theorem raiseStatus_host (f : Failure) : (raiseStatus s f).host = s.host := rfl
@[simp] theorem raiseStatus_readPort (f : Failure) : (raiseStatus s f).readPort = s.readPort := rfl

@[simp] theorem completeWith_res (c : Completion) : (completeWith s c).res = some c.res := rfl
@[simp] theorem completeWith_stat (c : Completion) : (completeWith s c).stat = packStat 1#1 (codeNum c.code) := rfl
@[simp] theorem completeWith_params (c : Completion) : (completeWith s c).params = s.params := rfl
@[simp] theorem completeWith_host (c : Completion) : (completeWith s c).host = s.host := rfl
@[simp] theorem completeWith_readPort (c : Completion) : (completeWith s c).readPort = s.readPort := rfl

@[simp] theorem resetInput_res : (resetInput s).res = none := rfl
@[simp] theorem resetInput_stat : (resetInput s).stat = 0b01111#5 := rfl
@[simp] theorem resetInput_params : (resetInput s).params = s.params := rfl
@[simp] theorem resetInput_host : (resetInput s).host = s.host := rfl
@[simp] theorem resetInput_readPort : (resetInput s).readPort = s.readPort := rfl

@[simp] theorem readStat_res : (readStat s).res = s.res := rfl
@[simp] theorem readStat_stat : (readStat s).stat = s.stat := rfl
@[simp] theorem readStat_params : (readStat s).params = s.params := rfl
@[simp] theorem readStat_host : (readStat s).host = s.host := rfl
@[simp] theorem readStat_readPort : (readStat s).readPort = some (.stat s.stat) := rfl

@[simp] theorem resAnswer_some (r : Result) : resAnswer (some r) = .res r := rfl
@[simp] theorem resAnswer_none : resAnswer none = .modelFault := rfl
theorem resAnswer_eq_modelFault {v : Option Result} : resAnswer v = .modelFault ↔ v = none := by cases v <;> simp [resAnswer]

@[simp] theorem readRes_res : (readRes s).res = s.res := rfl
@[simp] theorem readRes_stat : (readRes s).stat = s.stat := rfl
@[simp] theorem readRes_params : (readRes s).params = s.params := rfl
@[simp] theorem readRes_host : (readRes s).host = s.host := rfl
@[simp] theorem readRes_readPort : (readRes s).readPort = some (resAnswer s.res) := rfl

@[simp] theorem enqueueFirst_res (a : HostAction) : (enqueueFirst a s).res = s.res := rfl
@[simp] theorem enqueueFirst_stat (a : HostAction) : (enqueueFirst a s).stat = s.stat := rfl
@[simp] theorem enqueueFirst_params (a : HostAction) : (enqueueFirst a s).params = s.params := rfl
@[simp] theorem enqueueFirst_host (a : HostAction) : (enqueueFirst a s).host = a :: s.host := rfl
@[simp] theorem enqueueFirst_readPort (a : HostAction) : (enqueueFirst a s).readPort = s.readPort := rfl

@[simp] theorem finish_params (e : Except Failure Completion) : (finish s e).params = s.params := by cases e <;> rfl
@[simp] theorem finish_host (e : Except Failure Completion) : (finish s e).host = s.host := by cases e <;> rfl
@[simp] theorem finish_readPort (e : Except Failure Completion) : (finish s e).readPort = s.readPort := by cases e <;> rfl

@[simp] theorem finish_error (f : Failure) : finish s (.error f) = raiseStatus s f := rfl
@[simp] theorem finish_ok (c : Completion) : finish s (.ok c) = completeWith s c := rfl

@[simp] theorem resetWith_res (q : Params) : (State.resetWith q).res = none := rfl
@[simp] theorem resetWith_stat (q : Params) : (State.resetWith q).stat = 0b01111#5 := rfl
@[simp] theorem resetWith_params (q : Params) : (State.resetWith q).params = q := rfl
@[simp] theorem resetWith_host (q : Params) : (State.resetWith q).host = [] := rfl
@[simp] theorem resetWith_readPort (q : Params) : (State.resetWith q).readPort = none := rfl

/-! The values `STAT` can take (R201). -/

@[simp] theorem packStat_malformedDlc : packStat 0#1 (codeNum .malformedDlc) = 0x01#5 := rfl
@[simp] theorem packStat_malformedId : packStat 0#1 (codeNum .malformedId) = 0x02#5 := rfl
@[simp] theorem packStat_illegalRequest : packStat 0#1 (codeNum .illegalRequest) = 0x04#5 := rfl
@[simp] theorem packStat_variantMismatch : packStat 0#1 (codeNum .variantMismatch) = 0x05#5 := rfl
@[simp] theorem packStat_noneYet : packStat 0#1 (codeNum .noneYet) = 0x0F#5 := rfl
@[simp] theorem packStat_ok : packStat 1#1 (codeNum .ok) = 0x10#5 := rfl
@[simp] theorem packStat_unknownFc : packStat 1#1 (codeNum .unknownFc) = 0x13#5 := rfl

/-- The status of a completed request by the class of its function code. -/
theorem packStat_completionCode (cls : FcClass) : packStat 1#1 (codeNum (completionCode cls)) = statOfClass cls := by
  cases cls <;> rfl

/-- `STAT` is the concatenation of its two fields. -/
theorem packStat_fields (v : BitVec 5) : packStat (statValid v) (statCode v) = v := by
  revert v; decide

@[simp] theorem statValid_packStat (valid : Bit) (code : BitVec 4) : statValid (packStat valid code) = valid := by
  revert valid code; decide

@[simp] theorem statCode_packStat (valid : Bit) (code : BitVec 4) : statCode (packStat valid code) = code := by
  revert valid code; decide

end Sys2Proof.Machine
end

