-- ==== Sys2Proof/Laws/Bytes.lean ====
section
/-! SUPPORT. The laws of byte vectors and bit fields: the two ways the spec reads the identifier field agree (R17, R51,
R65), what is written is read back, and a command byte's fields are its parts. -/

namespace Sys2Proof.Machine

/-- A statement about the 8 indexes of a payload vector is 8 statements. -/
theorem forall_lt_eight {P : (k : Nat) → k < 8 → Prop} :
    (∀ k h, P k h) ↔ P 0 (by decide) ∧ P 1 (by decide) ∧ P 2 (by decide) ∧ P 3 (by decide) ∧ P 4 (by decide) ∧
      P 5 (by decide) ∧ P 6 (by decide) ∧ P 7 (by decide) := by
  constructor
  · intro h; exact ⟨h _ _, h _ _, h _ _, h _ _, h _ _, h _ _, h _ _, h _ _⟩
  · rintro ⟨h0, h1, h2, h3, h4, h5, h6, h7⟩ k hk
    match k, hk with
    | 0, _ => exact h0
    | 1, _ => exact h1
    | 2, _ => exact h2
    | 3, _ => exact h3
    | 4, _ => exact h4
    | 5, _ => exact h5
    | 6, _ => exact h6
    | 7, _ => exact h7

/-- A payload vector is the list of its 8 bytes. -/
theorem bytes8_eta (b : Bytes 8) : #v[b[0], b[1], b[2], b[3], b[4], b[5], b[6], b[7]] = b := by
  apply Vector.ext
  rw [forall_lt_eight]
  exact ⟨rfl, rfl, rfl, rfl, rfl, rfl, rfl, rfl⟩

/-- `le32` as the concatenation of its bytes, most significant first. -/
theorem le32_eq_append {m : Nat} (b : Bytes m) (k : Nat) (h : k + 4 ≤ m) :
    le32 b k h = (b[k + 3] ++ b[k + 2] ++ b[k + 1] ++ b[k] : BitVec 32) := by
  unfold le32
  generalize b[k] = b0
  generalize b[k + 1] = b1
  generalize b[k + 2] = b2
  generalize b[k + 3] = b3
  apply BitVec.eq_of_getLsbD_eq
  intro i hi
  simp only [BitVec.getLsbD_or, BitVec.getLsbD_shiftLeft, BitVec.getLsbD_setWidth, BitVec.getLsbD_append]
  interval_cases i <;> simp

/-- `le16` as the concatenation of its bytes, most significant first. -/
theorem le16_eq_append {m : Nat} (b : Bytes m) (k : Nat) (h : k + 2 ≤ m) :
    le16 b k h = (b[k + 1] ++ b[k] : BitVec 16) := by
  unfold le16
  generalize b[k] = b0
  generalize b[k + 1] = b1
  apply BitVec.eq_of_getLsbD_eq
  intro i hi
  simp only [BitVec.getLsbD_or, BitVec.getLsbD_shiftLeft, BitVec.getLsbD_setWidth, BitVec.getLsbD_append]
  interval_cases i <;> simp

/-- `MemRead(v, off, 4)` is `le32(v, off)` (R51). -/
theorem memRead_four {m : Nat} (v : Bytes m) (off : Nat) (h : off + 4 ≤ m) : memRead v off 4 h = le32 v off h := by
  rw [le32_eq_append]
  simp only [memRead]
  apply BitVec.eq_of_getLsbD_eq
  intro i hi
  simp only [BitVec.getLsbD_append]
  interval_cases i <;> simp

/-- `MemRead(v, off, 1)` is the byte at `off`. -/
theorem memRead_one {m : Nat} (v : Bytes m) (off : Nat) (h : off + 1 ≤ m) : memRead v off 1 h = v[off] := by
  simp only [memRead]
  apply BitVec.eq_of_getLsbD_eq
  intro i hi
  simp only [BitVec.getLsbD_append]
  interval_cases i <;> simp

theorem imgIdWord_eq_le32 (img : Bytes 16) : imgIdWord img = le32 img 0 := memRead_four img 0 _

theorem imgDlc_eq (img : Bytes 16) : imgDlc img = img[4] := memRead_one img 4 _

/-- The identifier's 11 bits, their split and the flag, read from the bytes of the image (R65). -/
theorem id_fields_from_bytes (img : Bytes 16) :
    id11Node (idId11 (imgIdWord img)) = img[0].extractLsb 6 0 ∧
      id11Fc (idId11 (imgIdWord img)) = (img[1].extractLsb 2 0 ++ img[0].extractLsb 7 7 : BitVec 4) ∧
      idRtr (imgIdWord img) = img[3].extractLsb 6 6 := by
  rw [imgIdWord_eq_le32, le32_eq_append]
  refine ⟨?_, ?_, ?_⟩ <;>
  · apply BitVec.eq_of_getLsbD_eq
    intro i hi
    simp only [id11Node, id11Fc, idId11, idRtr, BitVec.getLsbD_extractLsb, BitVec.getLsbD_append]
    interval_cases i <;> simp

/-- The function code and node id of an 11-bit identifier make it up again (R78). -/
theorem id11_split (v : BitVec 11) : (id11Fc v).setWidth 11 <<< 7 ||| (id11Node v).setWidth 11 = v := by
  apply BitVec.eq_of_getLsbD_eq
  intro i hi
  simp only [id11Node, id11Fc, BitVec.getLsbD_or, BitVec.getLsbD_shiftLeft, BitVec.getLsbD_setWidth,
    BitVec.getLsbD_extractLsb]
  interval_cases i <;> simp

/-- What PACK puts into the identifier field is what CLASSIFY takes out of it (R112, R120). -/
theorem packIdWord_fields (rtr : Bit) (fc : BitVec 4) (node : BitVec 7) :
    idRtr (packIdWord rtr fc node) = rtr ∧ id11Fc (idId11 (packIdWord rtr fc node)) = fc ∧
      id11Node (idId11 (packIdWord rtr fc node)) = node := by
  refine ⟨?_, ?_, ?_⟩ <;>
  · apply BitVec.eq_of_getLsbD_eq
    intro i hi
    simp only [packIdWord, idRtr, id11Fc, id11Node, idId11, BitVec.getLsbD_or, BitVec.getLsbD_shiftLeft,
      BitVec.getLsbD_setWidth, BitVec.getLsbD_extractLsb]
    interval_cases i <;> simp

/-- PACK sets no reserved identifier bit (R77, R120). -/
theorem packIdWord_reserved (rtr : Bit) (fc : BitVec 4) (node : BitVec 7) :
    packIdWord rtr fc node &&& rsvIdMask = 0#32 := by
  apply BitVec.eq_of_getLsbD_eq
  intro i hi
  simp only [packIdWord, rsvIdMask, BitVec.getLsbD_and, BitVec.getLsbD_or, BitVec.getLsbD_shiftLeft,
    BitVec.getLsbD_setWidth]
  interval_cases i <;> simp

/-- The identifier field packed from the fields of a word is that word less its reserved bits (R121). -/
theorem packIdWord_of_fields (w : Word) :
    packIdWord (idRtr w) (id11Fc (idId11 w)) (id11Node (idId11 w)) = w &&& 0x400007FF#32 := by
  apply BitVec.eq_of_getLsbD_eq
  intro i hi
  simp only [packIdWord, idRtr, id11Fc, id11Node, idId11, BitVec.getLsbD_and, BitVec.getLsbD_or,
    BitVec.getLsbD_shiftLeft, BitVec.getLsbD_setWidth, BitVec.getLsbD_extractLsb]
  interval_cases i <;> simp

/-- `MemWrite` of 4 bytes, then `MemRead` of them (R17). -/
theorem memRead_memWrite_four (v : Bytes 4) (w : Word) :
    memRead (memWrite v 0 4 (by decide) w) 0 4 (by decide) = w := by
  rw [memRead_four, le32_eq_append]
  simp only [memWrite, Vector.getElem_set]
  apply BitVec.eq_of_getLsbD_eq
  intro i hi
  simp only [BitVec.getLsbD_append]
  interval_cases i <;> simp

theorem packImage_idWord (w : Word) (dlen : Byte) (b : Bytes 8) : imgIdWord (packImage w dlen b) = w :=
  memRead_memWrite_four (Vector.replicate 4 0#8) w

theorem packImage_dlc (w : Word) (dlen : Byte) (b : Bytes 8) : imgDlc (packImage w dlen b) = dlen := by
  rw [imgDlc_eq]; rfl

theorem packImage_data (w : Word) (dlen : Byte) (b : Bytes 8) : imgData (packImage w dlen b) = b :=
  bytes8_eta b

/-- The initiate command byte and its five fields (R81). -/
theorem initByte_of_fields (c : Byte) :
    initByte (c.extractLsb 0 0) (c.extractLsb 1 1) (c.extractLsb 3 2) (c.extractLsb 4 4) (c.extractLsb 7 5) = c := by
  revert c; decide

theorem segByte_of_fields (c : Byte) :
    segByte (c.extractLsb 0 0) (c.extractLsb 3 1) (c.extractLsb 4 4) (c.extractLsb 7 5) = c := by
  revert c; decide

theorem genByte_of_fields (c : Byte) : genByte (c.extractLsb 4 0) (c.extractLsb 7 5) = c := by
  revert c; decide

/-- The fields of an initiate command byte are the ones it was made of (R81). -/
theorem fields_of_initByte (s e : Bit) (n : BitVec 2) (x : Bit) (cs : BitVec 3) :
    let c := initByte s e n x cs
    c.extractLsb 0 0 = s ∧ c.extractLsb 1 1 = e ∧ c.extractLsb 3 2 = n ∧ c.extractLsb 4 4 = x ∧ c.extractLsb 7 5 = cs := by
  revert s e n x cs; decide

theorem fields_of_segByte (c : Bit) (n : BitVec 3) (t : Bit) (cs : BitVec 3) :
    let v := segByte c n t cs
    v.extractLsb 0 0 = c ∧ v.extractLsb 3 1 = n ∧ v.extractLsb 4 4 = t ∧ v.extractLsb 7 5 = cs := by
  revert c n t cs; decide

theorem fields_of_genByte (rsv : BitVec 5) (cs : BitVec 3) :
    let v := genByte rsv cs
    v.extractLsb 4 0 = rsv ∧ v.extractLsb 7 5 = cs := by
  revert rsv cs; decide

/-- An index's two bytes, little-endian, are the index again (R54). -/
theorem index_of_bytes (v : BitVec 16) : (v.extractLsb 15 8 ++ v.extractLsb 7 0 : BitVec 16) = v := by
  apply BitVec.eq_of_getLsbD_eq
  intro i hi
  simp only [BitVec.getLsbD_append, BitVec.getLsbD_extractLsb]
  interval_cases i <;> simp

end Sys2Proof.Machine
end

