-- ==== Sys2Proof/Laws/Decode.lean ====
section
/-! SUPPORT. The decoder against the checks of WellFormed and the encoder's list of command bytes: the bit fields
(R71 to R73) and the arithmetic of the checks agree on all 256 command bytes. -/

namespace Sys2Proof

/-- A command byte names an operation exactly where it is legal (R74). -/
theorem decodeOp_isOk_iff_cmdLegal : ∀ c : Byte, (decodeOp c).isOk = cmdLegal c := by decide

/-- The command byte of an operation names it. -/
theorem decodeOp_opCmd (op : Op) : decodeOp (opCmd op) = .ok op := by
  cases op <;> rfl

/-- No two command bytes name one operation. -/
theorem eq_opCmd_of_decodeOp : ∀ (op : Op) (c : Byte), decodeOp c = .ok op → c = opCmd op := by
  intro op
  cases op <;> decide

/-- An operand record is bound to an operation exactly where it has the operation's type (R75). -/
theorem bindOperand_isOk_iff (op : Op) (x : Operand) : (bindOperand op x).isOk = decide (x.kind = operandKindOf op) := by
  cases op <;> cases x <;> rfl

/-- What a bound operand record is bound to. -/
theorem bindOperand_spec {op : Op} {x : Operand} {i : Instr} (h : bindOperand op x = .ok i) :
    instrOp i = op ∧ instrOperand i = x := by
  cases x <;> cases op <;> cases h <;> exact ⟨rfl, rfl⟩

theorem bindOperand_instr (i : Instr) : bindOperand (instrOp i) (instrOperand i) = .ok i := by
  cases i <;> rfl

/-- The command byte of every operation is legal. -/
theorem cmdLegal_opCmd (op : Op) : cmdLegal (opCmd op) = true := by
  cases op <;> decide

/-- An instruction's encoding passes both checks of R206. -/
theorem encode_wellFormed (i : Instr) : (encode i).wellFormed = true := by
  rw [Request.wellFormed, encode, cmdLegal_opCmd, Bool.true_and]
  cases i <;> simp [operandTyped, instrOp, instrOperand, opCmd]

end Sys2Proof
end

