-- ==== Sys2Proof/Laws/Ops.lean ====
section
/-! SUPPORT. What an instruction and a step can do, said once: an instruction ends the request with its outcome
(`exec_eq_finish`), a request ends with an outcome (`presentRequest_eq_finish`), and a step is one of five things
(`step_cases`). Then the two frame checks, one lemma for each way they can go. -/

namespace Sys2Proof.Machine

/-- Executing an instruction is ending its request with its outcome; every instruction completes. -/
theorem exec_eq_finish (i : Instr) (s : State) : exec i s = .next (finish s (outcomeOf s.params i)) := by
  cases i <;> rfl

/-- A request is accepted as an instruction exactly where it decodes to it; else its command byte is recorded (R206). -/
theorem acceptRequest_of_ok {r : Request} {i : Instr} (h : decode r = .ok i) : acceptRequest r = .ok i := by rw [acceptRequest, h]

theorem acceptRequest_of_error {r : Request} {e : DecodeError} (h : decode r = .error e) :
    acceptRequest r = .error (.illegalRequest r.cmd) := by rw [acceptRequest, h]

theorem requestOutcome_of_ok {q : Params} {r : Request} {i : Instr} (h : decode r = .ok i) :
    requestOutcome q r = outcomeOf q i := by rw [requestOutcome, acceptRequest_of_ok h]

theorem requestOutcome_of_error {q : Params} {r : Request} {e : DecodeError} (h : decode r = .error e) :
    requestOutcome q r = .error (.illegalRequest r.cmd) := by rw [requestOutcome, acceptRequest_of_error h]

theorem presentRequest_eq_finish (r : Request) (s : State) :
    presentRequest r s = .next (finish s (requestOutcome s.params r)) := by
  unfold presentRequest requestOutcome
  cases acceptRequest r with
  | ok i => exact exec_eq_finish i s
  | error f => rfl

/-- Everything a step that answers a next state can have done. -/
theorem step_cases {s t : State} (h : step s = .next t) :
    (s.host = [] ∧ t = s) ∨
    (∃ r rest, s.host = .request r :: rest ∧ t = finish { s with host := rest } (requestOutcome s.params r)) ∨
    (∃ rest, s.host = .assertReset :: rest ∧ t = resetInput { s with host := rest }) ∨
    (∃ rest, s.host = .readRes :: rest ∧ t = readRes { s with host := rest }) ∨
    (∃ rest, s.host = .readStat :: rest ∧ t = readStat { s with host := rest }) := by
  unfold step at h
  split at h
  · next hs => cases h; exact .inl ⟨hs, rfl⟩
  · next a rest hs =>
    cases a with
    | request r =>
      simp only [present, presentRequest_eq_finish, Host.Outcome.next.injEq] at h
      exact .inr (.inl ⟨r, rest, hs, h.symm⟩)
    | assertReset => cases h; exact .inr (.inr (.inl ⟨rest, hs, rfl⟩))
    | readRes => cases h; exact .inr (.inr (.inr (.inl ⟨rest, hs, rfl⟩)))
    | readStat => cases h; exact .inr (.inr (.inr (.inr ⟨rest, hs, rfl⟩)))

/-! The frame checks (R111, R113). -/

theorem frameFailure_of_long {q : Params} {img : Bytes 16} (h : 8#8 < imgDlc img) :
    frameFailure q img = some (.malformedDlc (imgDlc img)) := if_pos h

theorem frameFailure_of_reserved {q : Params} {img : Bytes 16} (h : ¬ 8#8 < imgDlc img) (hs : q.strictId = true)
    (hr : imgIdWord img &&& rsvIdMask ≠ 0#32) : frameFailure q img = some (.malformedId (imgIdWord img)) := by
  rw [frameFailure, if_neg h, if_pos ⟨hs, hr⟩]

theorem frameFailure_eq_none {q : Params} {img : Bytes 16} :
    frameFailure q img = none ↔
      ¬ 8#8 < imgDlc img ∧ (q.strictId = true → imgIdWord img &&& rsvIdMask = 0#32) := by
  unfold frameFailure
  split
  · simp [*]
  · split
    · next h => simp only [reduceCtorEq, false_iff, not_and, not_forall]; exact fun _ => ⟨h.1, h.2⟩
    · next h => simp only [true_iff]; exact ⟨‹_›, fun hs => by_contra fun hr => h ⟨hs, hr⟩⟩

/-- CLASSIFY and PARSE of a frame that passes the checks (R117, R181). -/
theorem classify_of_pass {q : Params} {img : Bytes 16} (h : frameFailure q img = none) :
    classify q img = .ok ⟨completionCode (classOf q (frameHdr q img).fc), .classified (frameHdr q img)⟩ := by
  rw [classify, h]

theorem parseFrame_of_pass {q : Params} {img : Bytes 16} (ph : Phase) (h : frameFailure q img = none) :
    parseFrame q img ph = .ok ⟨completionCode (classOf q (frameHdr q img).fc),
      .parsed (frameHdr q img) (decPayload (classOf q (frameHdr q img).fc) (imgDlc img) (imgData img) ph)
        (drv (decPayload (classOf q (frameHdr q img).fc) (imgDlc img) (imgData img) ph))⟩ := by
  rw [parseFrame, h]; rfl

theorem classify_of_failure {q : Params} {img : Bytes 16} {f : Failure} (h : frameFailure q img = some f) :
    classify q img = .error f := by
  rw [classify, h]

theorem parseFrame_of_failure {q : Params} {img : Bytes 16} {f : Failure} (ph : Phase)
    (h : frameFailure q img = some f) : parseFrame q img ph = .error f := by
  rw [parseFrame, h]

/-- DECODE of a payload whose length is at most 8 (R156). -/
theorem decodePayload_of_short {q : Params} {fc : BitVec 4} {dlen : Byte} {b : Bytes 8} {ph : Phase}
    (h : ¬ 8#8 < dlen) : decodePayload q fc dlen b ph =
      .ok ⟨completionCode (classOf q fc), .decoded (decPayload (classOf q fc) dlen b ph)
        (drv (decPayload (classOf q fc) dlen b ph))⟩ := by
  rw [decodePayload, if_neg h]

/-- An 8-bit length above 8, as numbers. -/
theorem eight_lt_iff (v : Byte) : 8#8 < v ↔ 8 < v.toNat := Iff.rfl

end Sys2Proof.Machine
end

