-- ==== Sys2Proof/Laws/Payload.lean ====
section
/-! SUPPORT. One lemma for each layout: writing what was read gives the bytes, reading what was written gives the fields
(41_payload_interpreter.md R142 to R147, R159). -/

namespace Sys2Proof.Machine

theorem readSdoInit_encBytes (s e : Bit) (n : BitVec 2) (x : Bit) (cs : BitVec 3) (index : BitVec 16) (sub : Byte)
    (data : Bytes 4) :
    readSdoInit (encBytes (.sdoInit s e n x cs index sub data)) = .sdoInit s e n x cs index sub data := by
  obtain ⟨h1, h2, h3, h4, h5⟩ := fields_of_initByte s e n x cs
  have hi := index_of_bytes index
  simp only [readSdoInit, encBytes, indexedBytes, dataBytes, le16_eq_append]
  rw [Payload.sdoInit.injEq]
  refine ⟨h1, h2, h3, h4, h5, hi, rfl, ?_⟩
  apply Vector.ext
  intro k hk
  match k, hk with
  | 0, _ => rfl
  | 1, _ => rfl
  | 2, _ => rfl
  | 3, _ => rfl

theorem readSdoSeg_encBytes (c : Bit) (n : BitVec 3) (t : Bit) (cs : BitVec 3) (seg : Bytes 7) :
    readSdoSeg (encBytes (.sdoSeg c n t cs seg)) = .sdoSeg c n t cs seg := by
  obtain ⟨h1, h2, h3, h4⟩ := fields_of_segByte c n t cs
  simp only [readSdoSeg, encBytes, segBytes]
  rw [Payload.sdoSeg.injEq]
  refine ⟨h1, h2, h3, h4, ?_⟩
  apply Vector.ext
  intro k hk
  match k, hk with
  | 0, _ => rfl
  | 1, _ => rfl
  | 2, _ => rfl
  | 3, _ => rfl
  | 4, _ => rfl
  | 5, _ => rfl
  | 6, _ => rfl

theorem readSdoGen_encBytes (rsv : BitVec 5) (cs : BitVec 3) (index : BitVec 16) (sub : Byte) (data : Bytes 4) :
    readSdoGen (encBytes (.sdoGen rsv cs index sub data)) = .sdoGen rsv cs index sub data := by
  obtain ⟨h1, h2⟩ := fields_of_genByte rsv cs
  have hi := index_of_bytes index
  simp only [readSdoGen, encBytes, indexedBytes, dataBytes, le16_eq_append]
  rw [Payload.sdoGen.injEq]
  refine ⟨h1, h2, hi, rfl, ?_⟩
  apply Vector.ext
  intro k hk
  match k, hk with
  | 0, _ => rfl
  | 1, _ => rfl
  | 2, _ => rfl
  | 3, _ => rfl

/-- The two bytes of an index read from a payload vector. -/
theorem le16_bytes (b : Bytes 8) : (le16 b 1).extractLsb 7 0 = b[1] ∧ (le16 b 1).extractLsb 15 8 = b[2] := by
  rw [le16_eq_append]
  refine ⟨?_, ?_⟩ <;>
  · apply BitVec.eq_of_getLsbD_eq
    intro i hi
    simp only [BitVec.getLsbD_append, BitVec.getLsbD_extractLsb]
    interval_cases i <;> simp

theorem encBytes_readSdoInit (b : Bytes 8) : encBytes (readSdoInit b) = b := by
  obtain ⟨h1, h2⟩ := le16_bytes b
  simp only [readSdoInit, encBytes, indexedBytes, initByte_of_fields, h1, h2]
  exact bytes8_eta b

theorem encBytes_readSdoSeg (b : Bytes 8) : encBytes (readSdoSeg b) = b := by
  simp only [readSdoSeg, encBytes, segByte_of_fields]
  exact bytes8_eta b

theorem encBytes_readSdoGen (b : Bytes 8) : encBytes (readSdoGen b) = b := by
  obtain ⟨h1, h2⟩ := le16_bytes b
  simp only [readSdoGen, encBytes, indexedBytes, genByte_of_fields, h1, h2]
  exact bytes8_eta b

/-- Whatever phase an SDO payload is read in, writing it gives its bytes (R163). -/
theorem encBytes_readSdo (b : Bytes 8) (ph : Phase) : encBytes (readSdo b ph) = b := by
  cases ph
  · exact encBytes_readSdoInit b
  · exact encBytes_readSdoSeg b
  · exact encBytes_readSdoGen b

/-- The payload DECODE and PARSE give is the one the class selects (R30, R119). -/
theorem compatible_decPayload (cls : FcClass) (dlen : Byte) (b : Bytes 8) (ph : Phase) :
    compatible cls (decPayload cls dlen b ph) = true := by
  cases cls <;> cases ph <;> rfl

end Sys2Proof.Machine
end

