-- ==== Sys2Proof/Laws/PerInstr.lean ====
section
/-! SUPPORT. Families of statements about every instruction as syntax, one lemma for each constructor: `EncodesLegally`,
that an instruction's encoding passes both checks of R206. -/

namespace Sys2Proof.Laws.EncodesLegally

/-- The encoding of the instruction is a legal request (R74, R75). -/
def Statement (i : Instr) : Prop := (Sys2Proof.encode i).wellFormed = true

theorem classify (img : Bytes 16) : Statement (.classify img) := encode_wellFormed _
theorem decodeInit (fc : BitVec 4) (dlen : Byte) (b : Bytes 8) : Statement (.decodeInit fc dlen b) := encode_wellFormed _
theorem parseInit (img : Bytes 16) : Statement (.parseInit img) := encode_wellFormed _
theorem encode (p : Payload) : Statement (.encode p) := encode_wellFormed _
theorem pack (rtr : Bit) (fc : BitVec 4) (node : BitVec 7) (dlen : Byte) (p : Payload) :
    Statement (.pack rtr fc node dlen p) := encode_wellFormed _
theorem decodeSeg (fc : BitVec 4) (dlen : Byte) (b : Bytes 8) : Statement (.decodeSeg fc dlen b) := encode_wellFormed _
theorem parseSeg (img : Bytes 16) : Statement (.parseSeg img) := encode_wellFormed _
theorem decodeGen (fc : BitVec 4) (dlen : Byte) (b : Bytes 8) : Statement (.decodeGen fc dlen b) := encode_wellFormed _
theorem parseGen (img : Bytes 16) : Statement (.parseGen img) := encode_wellFormed _

end Sys2Proof.Laws.EncodesLegally
end

