-- ==== Sys2Proof/Tests/Slice0.lean ====
section
/-! SUPPORT. The model's own tests. Expected values are those of spec/95_test_vectors.md (V<n>, S<n>), or written out by
hand from the encoding tables of spec/30_encoding.md. After them, for every statement that has hypotheses, a state and
operands that meet them all (`witness_<statement>`), each clause at a boundary value. -/

open Sys2Proof Sys2Proof.Machine Sys2Proof.Claims

namespace Sys2Proof.Tests

/-- A block whose host is about to do `as`. -/
def about (q : Params) (as : List HostAction) : State := { State.resetWith q with host := as }

/-- The default class table with the reserved identifier bits checked. -/
def strict : Params := ⟨true, defaultFcClass⟩

/-- `RES` and `STAT` after a step. -/
def seen : Host.Outcome State Fault Refusal → Option (Option Result × BitVec 5)
  | .next t => some (t.res, t.stat)
  | .fault _ => none
  | .refused _ => none

/-- The state after a step. -/
def after : Host.Outcome State Fault Refusal → Option State
  | .next t => some t
  | .fault _ => none
  | .refused _ => none

/-- One instruction, after reset. -/
def run (q : Params) (i : Instr) : Option (Option Result × BitVec 5) := seen (exec i (State.resetWith q))

/-! The images and payload vectors of the spec's vectors. -/

def v1 : Bytes 16 := #v[0x85, 0x05, 0, 0, 8, 0, 0, 0, 0x43, 0x18, 0x10, 0x01, 0x12, 0x34, 0x56, 0x78]
def v1Hdr : Hdr := ⟨0, 0xB, 0x05, 0x585, 0b10, 0, 8, #v[0x43, 0x18, 0x10, 0x01, 0x12, 0x34, 0x56, 0x78]⟩
def v7 : Bytes 16 := #v[0x85, 0x06, 0, 0, 9, 0, 0, 0, 0x40, 0x18, 0x10, 0x01, 0, 0, 0, 0]
def v10 : Bytes 16 := #v[0x85, 0x05, 0, 0x80, 8, 0, 0, 0, 0x43, 0x18, 0x10, 0x01, 0x12, 0x34, 0x56, 0x78]
def v16 : Bytes 16 := #v[0xFF, 0x07, 0, 0, 0, 0xAA, 0xBB, 0xCC, 0, 0, 0, 0, 0, 0, 0, 0]
def v6 : Bytes 16 := #v[0x85, 0x06, 0, 0, 8, 0, 0, 0, 0x40, 0x18, 0x10, 0x01, 0, 0, 0, 0]
def b20 : Bytes 8 := #v[0x43, 0x18, 0x10, 0x01, 0x12, 0x34, 0x56, 0x78]
def bAbort : Bytes 8 := #v[0x80, 0x18, 0x10, 0x01, 0x00, 0x00, 0x02, 0x06]
def bSeg : Bytes 8 := #v[0x1B, 0x41, 0x42, 0, 0, 0, 0, 0]
def zero8 : Bytes 8 := #v[0, 0, 0, 0, 0, 0, 0, 0]

/-! The checks of a request, each with a request it refuses (R74, R75; V110 to V116). -/

theorem test_reserved_bits_refused : rsvClear 0x21 = false ∧ decode ⟨0x21, .rawImg v1⟩ = .error .reservedBits := by decide
theorem test_reserved_op_refused : opDefined 0x05 = false ∧ decode ⟨0x05, .rawImg v1⟩ = .error .reservedOp := by decide
theorem test_reserved_phase_refused :
    phaseDefined 0x19 = false ∧ decode ⟨0x19, .decIn 0xB 8 b20⟩ = .error .reservedPhase ∧
      phaseDefined 0x1A = false ∧ decode ⟨0x1A, .rawImg v1⟩ = .error .reservedPhase := by decide
theorem test_phase_where_none_refused :
    phaseUnused 0x08 = false ∧ decode ⟨0x08, .rawImg v1⟩ = .error .phaseNotAllowed ∧
      phaseUnused 0x0B = false ∧ phaseUnused 0x14 = false := by decide
theorem test_mistyped_operand_refused :
    operandTyped ⟨0x00, .decIn 0xB 8 b20⟩ = false ∧ decode ⟨0x00, .decIn 0xB 8 b20⟩ = .error .mistypedOperand := by decide
theorem test_illegal_request_wellFormed_false :
    (Request.mk 0xFF (.rawImg v1)).wellFormed = false ∧ (Request.mk 0x02 (.rawImg v1)).wellFormed = true := by decide

/-- V112, V117 (R206): the command byte is recorded, whatever the operand holds. -/
theorem test_illegal_request_records_command :
    requestOutcome .default ⟨0x1A, .rawImg v1⟩ = .error (.illegalRequest 0x1A) ∧
      requestOutcome .default ⟨0x19, .decIn 0xB 9 b20⟩ = .error (.illegalRequest 0x19) := ⟨rfl, rfl⟩

/-! Each command byte, written out as `RSV`, `PHASE`, `OP` from R71 to R73. -/

theorem test_decode_classify : decode ⟨0b00000000#8, .rawImg v1⟩ = .ok (.classify v1) := by decide
theorem test_decode_decodeInit : decode ⟨0b00000001#8, .decIn 0xB 8 b20⟩ = .ok (.decodeInit 0xB 8 b20) := by decide
theorem test_decode_parseInit : decode ⟨0b00000010#8, .rawImg v1⟩ = .ok (.parseInit v1) := by decide
theorem test_decode_encode : decode ⟨0b00000011#8, .encIn (.nmtNg 5)⟩ = .ok (.encode (.nmtNg 5)) := by decide
theorem test_decode_pack :
    decode ⟨0b00000100#8, .frameIn 1 0xE 5 0 (.nmtNg 0)⟩ = .ok (.pack 1 0xE 5 0 (.nmtNg 0)) := by decide
theorem test_decode_decodeSeg : decode ⟨0b00001001#8, .decIn 0xB 8 b20⟩ = .ok (.decodeSeg 0xB 8 b20) := by decide
theorem test_decode_parseSeg : decode ⟨0b00001010#8, .rawImg v1⟩ = .ok (.parseSeg v1) := by decide
theorem test_decode_decodeGen : decode ⟨0b00010001#8, .decIn 0xB 8 b20⟩ = .ok (.decodeGen 0xB 8 b20) := by decide
theorem test_decode_parseGen : decode ⟨0b00010010#8, .rawImg v1⟩ = .ok (.parseGen v1) := by decide
theorem test_table_word : decodeTableWord 8 0x0A = some (.parseSeg (Vector.replicate 16 0)) ∧ decodeTableWord 8 0x1A = none := by
  decide

/-! Instructions (at most two tests each). -/

theorem test_classify_v1 : run .default (.classify v1) = some (some (.classified v1Hdr), 0x10) := by decide
theorem test_classify_v10 : run strict (.classify v10) = some (none, 0x02) := by decide
theorem test_decodeInit_v22 :
    run .default (.decodeInit 0xB 6 #v[0x4B, 0x00, 0x10, 0x00, 0x34, 0x12, 0xFF, 0xFF]) =
      some (some (.decoded (.sdoInit 1 1 2 0 2 0x1000 0 #v[0x34, 0x12, 0xFF, 0xFF])
        (.drvInit 0xFFFF1234 2 0x1234 0 0)), 0x10) := by decide
theorem test_decodeInit_v23 :
    run .default (.decodeInit 0xB 8 #v[0x41, 0x18, 0x10, 0x01, 0x0A, 0, 0, 0]) =
      some (some (.decoded (.sdoInit 1 0 0 0 2 0x1018 1 #v[0x0A, 0, 0, 0]) (.drvInit 0xA 0 0 1 0xA)), 0x10) := by decide
theorem test_decodeSeg_v30 :
    run .default (.decodeSeg 0xB 8 bSeg) =
      some (some (.decoded (.sdoSeg 1 5 1 0 #v[0x41, 0x42, 0, 0, 0, 0, 0]) (.drvSeg 2 1)), 0x10) := by decide
theorem test_decodeSeg_v40 :
    run .default (.decodeSeg 0xE 1 #v[0x7F, 0, 0, 0, 0, 0, 0, 0]) =
      some (some (.decoded (.nmtNg 0x7F) (.drvNg 0 0x7F)), 0x10) := by decide
theorem test_decodeGen_v35 :
    run .default (.decodeGen 0xB 8 #v[0x9F, 0x00, 0x20, 0x05, 0x11, 0x22, 0x33, 0x44]) =
      some (some (.decoded (.sdoGen 0x1F 4 0x2000 5 #v[0x11, 0x22, 0x33, 0x44]) (.drvGen 0x44332211 1 0x44332211)), 0x10) := by
  decide
theorem test_decodeGen_v43 :
    run .default (.decodeGen 0xF 0 zero8) = some (some (.decoded (.opaqueRaw zero8 0) .drvNone), 0x13) := by decide
theorem test_parseInit_v90 :
    run .default (.parseInit v1) = some (some (.parsed v1Hdr (.sdoInit 1 1 0 0 2 0x1018 1 #v[0x12, 0x34, 0x56, 0x78])
      (.drvInit 0x78563412 4 0x78563412 0 0)), 0x10) := by decide
theorem test_parseInit_v97 :
    run .default (.parseInit #v[0x05, 0x07, 0, 0x40, 0, 0, 0, 0, 0, 0, 0, 0, 0, 0, 0, 0]) =
      some (some (.parsed ⟨1, 0xE, 0x05, 0x705, 0b01, 0, 0, zero8⟩ (.nmtNg 0) (.drvNg 0 0)), 0x10) := by decide
theorem test_parseSeg_program2_step5 :
    run .default (.parseSeg #v[0x85, 0x05, 0, 0, 8, 0, 0, 0, 0x19, 0x43, 0x41, 0x4E, 0, 0, 0, 0]) =
      some (some (.parsed ⟨0, 0xB, 5, 0x585, 0b10, 0, 8, #v[0x19, 0x43, 0x41, 0x4E, 0, 0, 0, 0]⟩
        (.sdoSeg 1 4 1 0 #v[0x43, 0x41, 0x4E, 0, 0, 0, 0]) (.drvSeg 3 1)), 0x10) := by decide
theorem test_parseSeg_v96 : run strict (.parseSeg v10) = some (none, 0x02) := by decide
theorem test_parseGen_v94 :
    run .default (.parseGen v6) = some (some (.parsed ⟨0, 0xD, 0x05, 0x685, 0b11, 0, 8, #v[0x40, 0x18, 0x10, 1, 0, 0, 0, 0]⟩
      (.opaqueRaw #v[0x40, 0x18, 0x10, 1, 0, 0, 0, 0] 8) .drvNone), 0x13) := by decide
theorem test_encode_v51 :
    run .default (.encode (.sdoInit 1 1 2 0 1 0x6040 0 #v[0x0F, 0x00, 0xAA, 0xBB])) =
      some (some (.encoded #v[0x2B, 0x40, 0x60, 0x00, 0x0F, 0x00, 0xAA, 0xBB] 8), 0x10) := by decide
theorem test_encode_v54 :
    run .default (.encode (.sdoSeg 1 5 1 0 #v[0x41, 0x42, 0, 0, 0, 0, 0])) = some (some (.encoded bSeg 8), 0x10) := by decide
theorem test_pack_v73 :
    run .default (.pack 1 0xE 0x05 0 (.nmtNg 0)) =
      some (some (.packed #v[0x05, 0x07, 0, 0x40, 0, 0, 0, 0, 0, 0, 0, 0, 0, 0, 0, 0]), 0x10) := by decide
theorem test_pack_v82_length_first : run .default (.pack 0 0xB 0x05 9 (.nmtMc 1 5)) = some (none, 0x01) := by decide

/-! The host's other actions (V117, V118, R21, R22). -/

theorem test_reset_v118 : State.reset.res = none ∧ State.reset.stat = 0x0F := by decide
theorem test_read_of_empty_res_faults :
    after (step (about .default [.readRes])) = some { State.reset with readPort := some .modelFault } := by decide
theorem test_illegal_before_length_v117 :
    seen (step (about .default [.request ⟨0x19, .decIn 0xB 9 b20⟩])) = some (none, 0x04) := by decide
theorem test_fetch_word_runs_pack : seen (step (State.reset.withFetchWord 8 0x04)) =
    some (some (.packed (Vector.replicate 16 0)), 0x10) := by decide

/-! Witnesses: what meets the hypotheses of each statement. -/

/-- A block that holds V1's parse, with status OK. -/
def full : State := { about .default [] with res := some (.encoded zero8 8), stat := 0x10 }

theorem witness_ResetInputSetsBothRegisters :
    { full with host := [.assertReset, .readStat] }.host = .assertReset :: [.readStat] := rfl
theorem witness_StepExecutesTheDecodedRequest :
    (about .default [.request ⟨0x02, .rawImg v1⟩]).host = .request ⟨0x02, .rawImg v1⟩ :: [] ∧
      decode ⟨0x02, .rawImg v1⟩ = .ok (.parseInit v1) := ⟨rfl, by decide⟩
theorem witness_IllegalRequestRaisesItsStatus :
    (about .default [.request ⟨0x1A, .rawImg v1⟩]).host = .request ⟨0x1A, .rawImg v1⟩ :: [] ∧
      legal ⟨0x1A, .rawImg v1⟩ = false ∧ legal ⟨0x00, .decIn 0xB 8 b20⟩ = false := ⟨rfl, by decide, by decide⟩
theorem witness_ExactlyNineCommandBytesAreLegal :
    (0x05#8) ∉ commandTable.map Prod.fst ∧ (0x13#8) ∉ commandTable.map Prod.fst ∧ (0x20#8) ∉ commandTable.map Prod.fst := by
  decide
theorem witness_IdleBlockHoldsItsRegisters : full.host = [] := rfl
theorem witness_HostReadOfResReturnsItOrFaults :
    ({ full with host := [.readRes] } : State).host = .readRes :: [] ∧ full.res = some (.encoded zero8 8) ∧
      (about .default [.readRes]).host = .readRes :: [] ∧ (about .default [.readRes]).res = none := ⟨rfl, rfl, rfl, rfl⟩
theorem witness_HostReadOfStatHasNoSideEffect : (about .default [.readStat]).host = .readStat :: [] := rfl
theorem witness_OnlyARequestOrResetChangesRegisters :
    ∃ t, step { full with host := [.assertReset] } = .next t ∧ (t.stat ≠ 0x10 ∨ t.res ≠ full.res) :=
  ⟨_, rfl, by decide⟩
theorem witness_NoStepChangesTheParameters : ∃ t, step (about strict [.assertReset]) = .next t := ⟨_, rfl⟩
theorem witness_OutcomeDependsOnRequestAndParametersOnly :
    full.params = (about .default [.readRes]).params ∧
      (∃ t, presentRequest ⟨0x00, .rawImg v1⟩ full = .next t) ∧
      ∃ t, presentRequest ⟨0x00, .rawImg v1⟩ (about .default [.readRes]) = .next t := ⟨rfl, ⟨_, rfl⟩, ⟨_, rfl⟩⟩
theorem witness_PresentingARequestTwiceChangesNothing : ∃ t, presentRequest ⟨0x04, .frameIn 0 0 0 2 (.nmtMc 1 5)⟩ full = .next t :=
  ⟨_, rfl⟩
theorem witness_TheLaterRequestOverwritesTheEarlier :
    ∃ u, Sys2Proof.core.run 2 (about .default [.request ⟨0x02, .rawImg v1⟩, .request ⟨0x03, .encIn (.nmtNg 5)⟩]) = .next u :=
  ⟨_, rfl⟩
theorem witness_ValidExactlyWhenResHoldsAResult :
    (∃ t, presentRequest ⟨0x00, .rawImg v1⟩ full = .next t ∧ t.stat = 0x10) ∧
      ∃ t, presentRequest ⟨0x00, .rawImg v7⟩ full = .next t ∧ t.stat = 0x01 := ⟨⟨_, rfl, by decide⟩, ⟨_, rfl, by decide⟩⟩
theorem witness_StatusIsTheFirstThatApplies :
    seen (presentRequest ⟨0x19, .decIn 0xB 9 b20⟩ full) = some (none, 0x04) ∧
      seen (presentRequest ⟨0x04, .frameIn 0 0xB 5 9 (.nmtMc 1 5)⟩ full) = some (none, 0x01) ∧
      seen (presentRequest ⟨0x04, .frameIn 0 0xB 5 8 (.nmtMc 1 5)⟩ full) = some (none, 0x05) ∧
      seen (presentRequest ⟨0x00, .rawImg v10⟩ { full with params := strict }) = some (none, 0x02) := by decide
theorem witness_EachOperationsPossibleStatuses :
    (∃ t, exec (.classify v10) (about strict []) = .next t ∧ t.stat = 0x02) ∧
      (∃ t, exec (.decodeGen 0xF 0 zero8) full = .next t ∧ t.stat = 0x13) ∧
      (∃ t, exec (.encode (.opaqueRaw zero8 9)) full = .next t ∧ t.stat = 0x01) ∧
      ∃ t, exec (.pack 0 0xB 5 8 (.nmtMc 1 5)) full = .next t ∧ t.stat = 0x05 :=
  ⟨⟨_, rfl, by decide⟩, ⟨_, rfl, by decide⟩, ⟨_, rfl, by decide⟩, ⟨_, rfl, by decide⟩⟩
theorem witness_EveryStepKeepsTheInvariant : Inv full ∧ ∃ t, step { full with host := [.readRes] } = .next t :=
  ⟨⟨.inl rfl, fun r h => by cases h; exact ⟨by decide, rfl⟩⟩, _, rfl⟩
theorem witness_ClassifyCompletesWithTheHeader :
    frameOk Params.default v1 ∧ frameOk strict v16 ∧ v16[4].toNat = 0 ∧ v1[4].toNat = 8 := by
  unfold frameOk; decide
theorem witness_LengthsAboveEightAreMalformed :
    8 < v7[4].toNat ∧ v1[4].toNat ≤ 8 ∧ 8 < (9#8).toNat ∧ 8 < (255#8).toNat ∧ (8#8).toNat ≤ 8 ∧
      (∀ b len, Payload.opaqueRaw zero8 8 = .opaqueRaw b len → len.toNat ≤ 8) ∧
      (∀ b len, Payload.nmtNg 5 = .opaqueRaw b len → len.toNat ≤ 8) ∧
      (∃ t, exec (.classify v1) full = .next t) ∧ (∃ t, exec (decodeIn .init 0xB 8 b20) full = .next t) ∧
      (∃ t, exec (.encode (.opaqueRaw zero8 8)) full = .next t) ∧
      ∃ t, exec (.pack 0 0 0 8 (.nmtMc 1 5)) full = .next t :=
  ⟨by decide, by decide, by decide, by decide, by decide, by rintro b len ⟨⟩; decide, by rintro b len ⟨⟩,
    ⟨_, rfl⟩, ⟨_, rfl⟩, ⟨_, rfl⟩, _, rfl⟩
theorem witness_ReservedIdentifierBitsMatterOnlyWhenStrict :
    (strict.strictId = true ∧ v10[4].toNat ≤ 8 ∧ le32 v10 0 &&& 0xBFFFF800#32 ≠ 0#32) ∧
      Params.default.strictId = false ∧ le32 v10 0 &&& 0x400007FF#32 = le32 v1 0 &&& 0x400007FF#32 ∧
      (∀ (k : Nat) (h : k < 16), 4 ≤ k → v10[k] = v1[k]) := by decide
theorem witness_PaddingIsIgnoredAndWrittenAsZero :
    (∀ (k : Nat) (h : k < 16), ¬(5 ≤ k ∧ k ≤ 7) →
      v16[k] = (#v[0xFF, 0x07, 0, 0, 0, 1, 2, 3, 0, 0, 0, 0, 0, 0, 0, 0] : Bytes 16)[k]) ∧
      ∃ t img, exec (.pack 0 0 0 2 (.nmtMc 1 5)) full = .next t ∧ t.res = some (.packed img) :=
  ⟨by decide, _, _, rfl, rfl⟩
theorem witness_IdentifierFieldsReadAsBytes :
    ∃ t h, exec (.classify v1) full = .next t ∧ t.res = some (.classified h) := ⟨_, _, rfl, rfl⟩
theorem witness_ClassifySplitsEveryIdentifier :
    le32 v16 0 = ((0xF#4).setWidth 32 <<< 7) ||| (0x7F#7).setWidth 32 ∧ v16[4].toNat ≤ 8 := by decide
theorem witness_PayloadBytesNeverDecideStatusOrHeader :
    (∀ (k : Nat) (h : k < 5), v6[k] = (#v[0x85, 0x06, 0, 0, 8, 1, 1, 1, 1, 1, 1, 1, 1, 1, 1, 1] : Bytes 16)[k]) ∧
      (∃ t, exec (.classify v6) full = .next t ∧ ∃ h, t.res = some (.classified h)) ∧
      ∃ u, exec (parseIn .seg v6) full = .next u ∧ ∃ h p d, u.res = some (.parsed h p d) :=
  ⟨by decide, ⟨_, rfl, _, rfl⟩, _, rfl, _, _, _, rfl⟩
theorem witness_DecodeReadsAnNmtCommand : (8#8).toNat ≤ 8 ∧ classOf full.params 0x0 = .nmtMc := by decide
theorem witness_DecodeReadsANodeGuardReply : (0#8).toNat ≤ 8 ∧ classOf full.params 0xE = .nmtNg := by decide
theorem witness_DecodePassesOpaquePayloadsThrough :
    (3#8).toNat ≤ 8 ∧ classOf full.params 0x3 = .opaqueClass ∧ classOf full.params 0xF = .unknown := by decide
/-- The hypotheses of the statements about an SDO payload: `DecodeInitReadsTheInitiateLayout`,
`DecodeSegReadsTheSegmentLayout`, `DecodeGenReadsTheGenericLayout`, `CommandSpecifierIsReportedInEveryPhase` and
`ReservedPayloadBitsAreKeptVerbatim`. -/
theorem witness_sdo_payloads :
    (8#8).toNat ≤ 8 ∧ isSdo (classOf full.params 0xB) ∧ isSdo (classOf full.params 0xC) ∧
      Phase.init ∈ [Phase.init, Phase.gen] ∧ Phase.gen ∈ [Phase.init, Phase.gen] := by
  unfold isSdo; decide
/-- The bits that tell the forms of an initiate frame apart take every combination. -/
theorem witness_DecodeInitReadsTheInitiateLayout_forms :
    (b20[0].getLsbD 1 = true ∧ b20[0].getLsbD 0 = true) ∧ ((0x22#8).getLsbD 1 = true ∧ (0x22#8).getLsbD 0 = false) ∧
      ((0x41#8).getLsbD 1 = false ∧ (0x41#8).getLsbD 0 = true) := by decide
theorem witness_ThePhaseAloneSelectsTheLayout :
    isSdo (classOf full.params 0xC) ∧ (8#8).toNat ≤ 8 ∧ ¬ isSdo (classOf full.params 0x0) := by
  unfold isSdo; decide
theorem witness_AnAbortSeenInASegmentRereadsInGen :
    isSdo (classOf full.params 0xB) ∧ ∃ t p d, exec (.decodeSeg 0xB 8 bAbort) full = .next t ∧
      t.res = some (.decoded p d) ∧ specifierOf p = some 4#3 :=
  ⟨.inl (by decide), _, _, _, rfl, rfl, by decide⟩
theorem witness_AWrongPhaseGoesUndetected :
    (8#8).toNat ≤ 8 ∧ isSdo (classOf full.params 0xB) ∧ bSeg[0] = 0x1B#8 := by
  unfold isSdo; decide
theorem witness_UnknownFunctionCodesPassThrough :
    frameOk full.params v6 ∧ classOf full.params (fcOf v6) = .unknown ∧ (8#8).toNat ≤ 8 ∧
      classOf full.params 0xF = .unknown ∧ ∃ t, exec (.encode (.nmtNg 5)) full = .next t :=
  ⟨by unfold frameOk; decide, by decide, by decide, by decide, _, rfl⟩
theorem witness_ParseCompletesWithHeaderAndPayload : frameOk full.params v1 ∧ frameOk strict v16 := by
  unfold frameOk; decide
theorem witness_ParseIsClassifyThenDecode :
    (∃ t, exec (.classify v7) full = .next t ∧ t.res = none) ∧
      ∃ t h, exec (.classify v1) full = .next t ∧ t.res = some (.classified h) := ⟨⟨_, rfl, rfl⟩, _, _, rfl, rfl⟩
theorem witness_EncodeWritesNmtAndOpaquePayloads : (0#8).toNat ≤ 8 ∧ (8#8).toNat ≤ 8 := by decide
theorem witness_PackBuildsTheFrameImage :
    ((8#8).toNat ≤ 8 ∧ matchesClass (classOf full.params 0x0) (.nmtMc 1 5) = true) ∧ 8 < (9#8).toNat ∧
      ((8#8).toNat ≤ 8 ∧ matchesClass (classOf full.params 0xB) (.nmtMc 1 5) = false) := by decide
theorem witness_DecodeAfterEncodeGivesThePayload :
    (∀ b len, Payload.opaqueRaw zero8 8 = .opaqueRaw b len → len.toNat ≤ 8) ∧
      matchesClass (classOf full.params 0x3) (.opaqueRaw zero8 8) = true ∧ readsBack (.opaqueRaw zero8 8) .gen ∧
      matchesClass (classOf full.params 0xB) (.sdoSeg 1 5 1 0 #v[0x41, 0x42, 0, 0, 0, 0, 0]) = true ∧
      readsBack (.sdoSeg 1 5 1 0 #v[0x41, 0x42, 0, 0, 0, 0, 0]) .seg := by
  refine ⟨?_, by decide, trivial, by decide, rfl⟩
  intro b len h
  cases h
  decide
theorem witness_EncodeAfterDecodeGivesTheBytes : (0#8).toNat ≤ 8 ∧ (8#8).toNat ≤ 8 := by decide
theorem witness_PackAfterParseGivesTheFrame : frameOk full.params v10 ∧ frameOk strict v1 := by
  unfold frameOk; decide

end Sys2Proof.Tests
end

section
/-! What the host's actions and the end of a request do to the two registers, and the invariant of STAT, RES and the
result held (10_state.md). The statements are settled from `finish`, the one end of every request, and from
`step_cases`. -/

namespace Sys2Proof.Machine

/-! The end of a request. -/

/-- A request's end writes `RES` and `STAT` together and keeps the frame (R210). -/
theorem finish_eq_update (s : State) (e : Except Failure Completion) :
    finish s e = { s with res := (finish s e).res, stat := (finish s e).stat } := by
  cases e <;> rfl

/-- The state a request finds has no part in what it leaves in `RES` (R27). -/
theorem finish_res_congr (s s' : State) (e : Except Failure Completion) : (finish s e).res = (finish s' e).res := by
  cases e <;> rfl

/-- The state a request finds has no part in what it leaves in `STAT` (R27). -/
theorem finish_stat_congr (s s' : State) (e : Except Failure Completion) : (finish s e).stat = (finish s' e).stat := by
  cases e <;> rfl

/-- However a request ends, `valid` tells whether `RES` holds a value (R23). -/
theorem finish_res_isSome_iff_valid (s : State) (e : Except Failure Completion) :
    (finish s e).res.isSome = true ↔ statValid (finish s e).stat = 1#1 := by
  cases e with
  | error f => simp
  | ok c => simp

/-! A step by the host's next action. -/

theorem step_of_host_nil {s : State} (h : s.host = []) : step s = .next s := by
  rw [step, h]

theorem step_of_host_cons {s : State} {a : HostAction} {rest : List HostAction} (h : s.host = a :: rest) :
    step s = present a { s with host := rest } := by
  rw [step, h]

theorem present_total (a : HostAction) (s : State) : ∃ t, present a s = .next t := by
  cases a with
  | request r => exact ⟨_, presentRequest_eq_finish r s⟩
  | assertReset => exact ⟨_, rfl⟩
  | readRes => exact ⟨_, rfl⟩
  | readStat => exact ⟨_, rfl⟩

theorem step_total (s : State) : ∃ t, step s = .next t := by
  cases h : s.host with
  | nil => exact ⟨s, step_of_host_nil h⟩
  | cons a rest =>
    rw [step_of_host_cons h]
    exact present_total a _

theorem step_of_readRes {s : State} {rest : List HostAction} (h : s.host = .readRes :: rest) :
    step s = .next { s with readPort := some (resAnswer s.res), host := rest } :=
  step_of_host_cons h

/-- A step is safe exactly where the host reads no empty `RES` (R21). -/
theorem stepSafe_iff (s : State) : StepSafe s ↔ ∀ rest, s.host = .readRes :: rest → s.res ≠ none := by
  constructor
  · rintro ⟨t, ht, hsafe⟩ rest hs hnone
    rw [step_of_readRes hs] at ht
    cases ht
    exact hsafe rest hs (congrArg some (resAnswer_eq_modelFault.mpr hnone))
  · intro hread
    obtain ⟨t, ht⟩ := step_total s
    refine ⟨t, ht, fun rest hs hfault => hread rest hs ?_⟩
    rw [step_of_readRes hs] at ht
    cases ht
    exact resAnswer_eq_modelFault.mp (Option.some.inj hfault)

/-! What a request can complete with. -/

theorem statOfClass_eq (cls : FcClass) : statOfClass cls = 0x10#5 ∨ statOfClass cls = 0x13#5 := by
  unfold statOfClass
  split
  · exact .inr rfl
  · exact .inl rfl

theorem statOfClass_eq_unknownFc {cls : FcClass} (h : statOfClass cls = 0x13#5) : cls = .unknown := by
  by_contra hne
  rw [statOfClass, if_neg hne] at h
  exact absurd h (by decide)

/-- The header of a frame whose length is at most 8 is coherent (R29, R85). -/
theorem hdrCoherent_frameHdr {img : Bytes 16} (q : Params) (h : imgDlc img ≤ 8#8) : HdrCoherent q (frameHdr q img) :=
  ⟨h, (id11_split _).symm, rfl, rfl⟩

theorem imgDlc_le_of_pass {q : Params} {img : Bytes 16} (h : frameFailure q img = none) : imgDlc img ≤ 8#8 :=
  BitVec.not_lt.mp (frameFailure_eq_none.mp h).1

theorem readSdo_ne_opaqueRaw (b : Bytes 8) (ph : Phase) (b' : Bytes 8) (len : Byte) :
    readSdo b ph ≠ .opaqueRaw b' len := by
  cases ph <;> exact nofun

/-- An opaque payload read from `b` holds `b` and the length it was read with (R147). -/
theorem eq_of_decPayload_eq_opaqueRaw {cls : FcClass} {dlen : Byte} {b b' : Bytes 8} {ph : Phase} {len : Byte}
    (h : decPayload cls dlen b ph = .opaqueRaw b' len) : b' = b ∧ len = dlen := by
  cases cls with
  | nmtMc => cases h
  | nmtNg => cases h
  | sdoRsp => exact absurd h (readSdo_ne_opaqueRaw b ph b' len)
  | sdoReq => exact absurd h (readSdo_ne_opaqueRaw b ph b' len)
  | opaqueClass => cases h; exact ⟨rfl, rfl⟩
  | unknown => cases h; exact ⟨rfl, rfl⟩

/-- Only an opaque payload's own length can exceed 8 (R160). -/
theorem encLen_le_of_opaqueRaw {p : Payload} (h : ∀ b len, p = .opaqueRaw b len → len ≤ 8#8) : encLen p ≤ 8#8 := by
  cases p with
  | nmtMc cs node => exact (by decide : (2#8) ≤ 8#8)
  | nmtNg state => exact (by decide : (1#8) ≤ 8#8)
  | sdoInit s e n x cs index subindex data => exact BitVec.le_refl _
  | sdoSeg c n t cs seg => exact BitVec.le_refl _
  | sdoGen rsv cs index subindex data => exact BitVec.le_refl _
  | opaqueRaw b len => exact h b len rfl

theorem encLen_decPayload_le {dlen : Byte} (cls : FcClass) (b : Bytes 8) (ph : Phase) (h : dlen ≤ 8#8) :
    encLen (decPayload cls dlen b ph) ≤ 8#8 :=
  encLen_le_of_opaqueRaw fun _ _ hp => (eq_of_decPayload_eq_opaqueRaw hp).2 ▸ h

/-- What the invariant asks of a completion: `STAT` is `{1, OK}` or `{1, UNKNOWN_FC}`, and the result is coherent
beside it. -/
def CompletionCoherent (q : Params) (c : Completion) : Prop :=
  (packStat 1#1 (codeNum c.code) = 0x10#5 ∨ packStat 1#1 (codeNum c.code) = 0x13#5) ∧
    ResultCoherent q (packStat 1#1 (codeNum c.code)) c.res

/-- A completion with its class's code is coherent where its result is, beside its class's status. -/
theorem completionCoherent_of_class {q : Params} {cls : FcClass} {r : Result}
    (h : ResultCoherent q (statOfClass cls) r) : CompletionCoherent q ⟨completionCode cls, r⟩ := by
  rw [CompletionCoherent, packStat_completionCode]
  exact ⟨statOfClass_eq cls, h⟩

theorem classify_coherent {q : Params} {img : Bytes 16} {c : Completion} (h : classify q img = .ok c) :
    CompletionCoherent q c := by
  cases hf : frameFailure q img with
  | some f => rw [classify_of_failure hf] at h; cases h
  | none =>
    rw [classify_of_pass hf] at h
    cases h
    exact completionCoherent_of_class ⟨hdrCoherent_frameHdr q (imgDlc_le_of_pass hf), rfl⟩

theorem parseFrame_coherent {q : Params} {img : Bytes 16} {ph : Phase} {c : Completion}
    (h : parseFrame q img ph = .ok c) : CompletionCoherent q c := by
  cases hf : frameFailure q img with
  | some f => rw [parseFrame_of_failure ph hf] at h; cases h
  | none =>
    rw [parseFrame_of_pass ph hf] at h
    cases h
    exact completionCoherent_of_class ⟨hdrCoherent_frameHdr q (imgDlc_le_of_pass hf), rfl,
      compatible_decPayload _ _ _ _, rfl, fun _ _ hp => eq_of_decPayload_eq_opaqueRaw hp⟩

/-- The payload of a class that reports UNKNOWN_FC is opaque (R147). -/
theorem decoded_coherent {q : Params} {cls : FcClass} {dlen : Byte} (b : Bytes 8) (ph : Phase) (h : dlen ≤ 8#8) :
    ResultCoherent q (statOfClass cls) (.decoded (decPayload cls dlen b ph) (drv (decPayload cls dlen b ph))) := by
  refine ⟨rfl, encLen_decPayload_le cls b ph h, fun hs => ?_⟩
  rw [statOfClass_eq_unknownFc hs]
  exact ⟨b, dlen, rfl⟩

theorem decodePayload_coherent {q : Params} {fc : BitVec 4} {dlen : Byte} {b : Bytes 8} {ph : Phase} {c : Completion}
    (h : decodePayload q fc dlen b ph = .ok c) : CompletionCoherent q c := by
  by_cases hl : 8#8 < dlen
  · rw [decodePayload, if_pos hl] at h; cases h
  · rw [decodePayload_of_short hl] at h
    cases h
    exact completionCoherent_of_class (decoded_coherent b ph (BitVec.not_lt.mp hl))

theorem encodePayload_coherent {q : Params} {p : Payload} {c : Completion} (h : encodePayload p = .ok c) :
    CompletionCoherent q c := by
  unfold encodePayload at h
  split at h
  · cases h
  · next hl => cases h; exact ⟨.inl packStat_ok, BitVec.not_lt.mp hl, packStat_ok⟩

/-- A packed image has its length, no reserved identifier bit, zero padding and its class's status (R66, R120). -/
theorem packImage_coherent {dlen : Byte} (q : Params) (rtr : Bit) (fc : BitVec 4) (node : BitVec 7) (b : Bytes 8)
    (h : dlen ≤ 8#8) :
    ResultCoherent q (statOfClass (classOf q fc)) (.packed (packImage (packIdWord rtr fc node) dlen b)) := by
  obtain ⟨-, hfc, -⟩ := packIdWord_fields rtr fc node
  rw [ResultCoherent, packImage_dlc, packImage_idWord, hfc]
  exact ⟨h, packIdWord_reserved rtr fc node, rfl, rfl, rfl, rfl⟩

theorem packFrame_coherent {q : Params} {rtr : Bit} {fc : BitVec 4} {node : BitVec 7} {dlen : Byte} {p : Payload}
    {c : Completion} (h : packFrame q rtr fc node dlen p = .ok c) : CompletionCoherent q c := by
  unfold packFrame at h
  split at h
  · cases h
  · next hl =>
    split at h
    · cases h
    · cases h
      exact completionCoherent_of_class (packImage_coherent q rtr fc node _ (BitVec.not_lt.mp hl))

theorem outcomeOf_coherent {q : Params} {i : Instr} {c : Completion} (h : outcomeOf q i = .ok c) :
    CompletionCoherent q c := by
  cases i with
  | classify img => exact classify_coherent h
  | decodeInit fc dlen b => exact decodePayload_coherent h
  | parseInit img => exact parseFrame_coherent h
  | encode p => exact encodePayload_coherent h
  | pack rtr fc node dlen p => exact packFrame_coherent h
  | decodeSeg fc dlen b => exact decodePayload_coherent h
  | parseSeg img => exact parseFrame_coherent h
  | decodeGen fc dlen b => exact decodePayload_coherent h
  | parseGen img => exact parseFrame_coherent h

theorem requestOutcome_coherent {q : Params} {r : Request} {c : Completion} (h : requestOutcome q r = .ok c) :
    CompletionCoherent q c := by
  cases hd : decode r with
  | error e => rw [requestOutcome_of_error hd] at h; cases h
  | ok i => rw [requestOutcome_of_ok hd] at h; exact outcomeOf_coherent h

/-! The invariant. -/

/-- The invariant speaks of `RES`, `STAT` and the parameters alone. -/
theorem inv_congr {s t : State} (hres : t.res = s.res) (hstat : t.stat = s.stat) (hparams : t.params = s.params) :
    Inv t ↔ Inv s := by
  rw [Inv, Inv, StatAgrees, StatAgrees, hres, hstat, hparams]

theorem inv_of_statNone {s : State} (hres : s.res = none) (hstat : s.stat = 0b01111#5) : Inv s := by
  constructor
  · rw [StatAgrees, hres, hstat]
    exact .inr (.inr (.inr (.inr rfl)))
  · intro r hr
    rw [hres] at hr
    cases hr

theorem inv_raiseStatus (s : State) (f : Failure) : Inv (raiseStatus s f) := by
  refine ⟨?_, nofun⟩
  cases f with
  | malformedDlc len => exact .inl packStat_malformedDlc
  | malformedId w => exact .inr (.inl packStat_malformedId)
  | illegalRequest cmd => exact .inr (.inr (.inl packStat_illegalRequest))
  | variantMismatch fc => exact .inr (.inr (.inr (.inl packStat_variantMismatch)))

theorem inv_completeWith {s : State} {c : Completion} (h : CompletionCoherent s.params c) : Inv (completeWith s c) := by
  obtain ⟨hstat, hres⟩ := h
  refine ⟨hstat, fun r hr => ?_⟩
  cases hr
  exact hres

/-- Whatever state a request finds, it leaves one that meets the invariant. -/
theorem inv_finish_requestOutcome (s : State) (r : Request) : Inv (finish s (requestOutcome s.params r)) := by
  cases h : requestOutcome s.params r with
  | error f => exact inv_raiseStatus s f
  | ok c => exact inv_completeWith (requestOutcome_coherent h)

/-- Where `STAT` agrees with `RES`, `valid` is 1 exactly for OK and UNKNOWN_FC (R23, R201). -/
theorem statValid_iff_code_of_statAgrees {s : State} (h : StatAgrees s) :
    statValid s.stat = 1#1 ↔ statCode s.stat = 0x0#4 ∨ statCode s.stat = 0x3#4 := by
  unfold StatAgrees at h
  split at h
  · rcases h with h | h <;> rw [h] <;> decide
  · rcases h with h | h | h | h | h <;> rw [h] <;> decide

/-! The obligations. -/

/-- Settles O23: the cases of a step. A request leaves the invariant whatever it finds, the reset input its own values,
and an idle step or a read the registers as they are. -/
theorem everyStepKeepsTheInvariant : Obligations.EveryStepKeepsTheInvariant := by
  intro s t hinv hstep
  rcases step_cases hstep with
    ⟨-, rfl⟩ | ⟨r, rest, -, rfl⟩ | ⟨rest, -, rfl⟩ | ⟨rest, -, rfl⟩ | ⟨rest, -, rfl⟩
  · exact hinv
  · exact inv_finish_requestOutcome { s with host := rest } r
  · exact inv_of_statNone rfl rfl
  · exact (inv_congr rfl rfl rfl).mpr hinv
  · exact (inv_congr rfl rfl rfl).mpr hinv

/-- Settles O12: a step always ends, and is safe exactly where it reads no empty `RES`. -/
theorem noStepStopsAndOnlyAReadOfEmptyResFaults : Obligations.NoStepStopsAndOnlyAReadOfEmptyResFaults := by
  intro s
  refine ⟨step_total s, ?_⟩
  rw [stepSafe_iff]
  constructor
  · intro hfault
    push Not at hfault
    obtain ⟨rest, hs, hnone⟩ := hfault
    exact ⟨hnone, rest, hs⟩
  · rintro ⟨hnone, rest, hs⟩ hread
    exact hread rest hs hnone

/-- Settles O13: of the cases of a step, the idle one and the reads keep both registers. -/
theorem onlyARequestOrResetChangesRegisters : Obligations.OnlyARequestOrResetChangesRegisters := by
  intro s t hstep hchange
  rcases step_cases hstep with
    ⟨-, rfl⟩ | ⟨r, rest, hs, -⟩ | ⟨rest, hs, -⟩ | ⟨rest, -, rfl⟩ | ⟨rest, -, rfl⟩
  · simp at hchange
  · exact ⟨rest, .inr ⟨r, hs⟩⟩
  · exact ⟨rest, .inl hs⟩
  · simp at hchange
  · simp at hchange

/-- Settles O14, by the frame of each case of a step. -/
theorem noStepChangesTheParameters : Obligations.NoStepChangesTheParameters := by
  intro s t hstep
  rcases step_cases hstep with
    ⟨-, rfl⟩ | ⟨r, rest, -, rfl⟩ | ⟨rest, -, rfl⟩ | ⟨rest, -, rfl⟩ | ⟨rest, -, rfl⟩
  · rfl
  · exact finish_params _ _
  · rfl
  · rfl
  · rfl

/-- Settles O15: both requests end with one outcome, and the outcome alone tells the registers. -/
theorem outcomeDependsOnRequestAndParametersOnly : Obligations.OutcomeDependsOnRequestAndParametersOnly := by
  intro r s s' t t' hparams ht ht'
  rw [presentRequest_eq_finish] at ht ht'
  cases ht
  cases ht'
  rw [hparams]
  exact ⟨finish_res_congr s s' _, finish_stat_congr s s' _⟩

/-- Settles O18: every instruction ends its request by `finish`. -/
theorem everyInstructionWritesResAndStatOnly : Obligations.EveryInstructionWritesResAndStatOnly := by
  intro i s
  refine ⟨_, _, ?_, finish_res_isSome_iff_valid s (outcomeOf s.params i)⟩
  rw [exec_eq_finish, ← finish_eq_update]

/-- Settles O19: after a request `STAT` agrees with `RES`, whatever state the request found. -/
theorem validExactlyWhenResHoldsAResult : Obligations.ValidExactlyWhenResHoldsAResult := by
  intro r s t ht
  rw [presentRequest_eq_finish] at ht
  cases ht
  obtain ⟨hagrees, -⟩ := inv_finish_requestOutcome s r
  refine ⟨statValid_iff_code_of_statAgrees hagrees, ?_⟩
  rw [← finish_res_isSome_iff_valid, Option.isSome_iff_ne_none]

/-- Settles O1, by the values of `State.resetWith`. -/
theorem resetLeavesNoResultAndStatNone : Obligations.ResetLeavesNoResultAndStatNone := fun q =>
  ⟨resetWith_res q, resetWith_stat q, resetWith_params q⟩

/-- Settles O10: the answer is the result `RES` holds, or the model fault. -/
theorem hostReadOfResReturnsItOrFaults : Obligations.HostReadOfResReturnsItOrFaults := by
  intro s rest hs
  rw [step_of_readRes hs]
  constructor
  · intro r hr
    rw [hr, resAnswer_some]
  · intro hnone
    rw [hnone, resAnswer_none]

/-- Settles O11: the step is the read of `STAT`. -/
theorem hostReadOfStatHasNoSideEffect : Obligations.HostReadOfStatHasNoSideEffect := fun _ _ hs =>
  step_of_host_cons hs

/-- Settles O22: after reset `RES` is empty and `STAT` is `{0, NONE}`. -/
theorem invariantHoldsAtReset : Obligations.InvariantHoldsAtReset := fun q =>
  inv_of_statNone (resetWith_res q) (resetWith_stat q)

end Sys2Proof.Machine
end

section
/-! Presenting a request again, and the frame image as memory: where the identifier's fields stand in its bytes, and that
its first 5 bytes alone decide a request's status and header (20_memory.md). CLASSIFY and PARSE are said once by what each
leaves in `STAT` and `RES`; the statements follow from that. -/

open Sys2Proof.Claims

namespace Sys2Proof.Machine

/-! Presenting a request again. -/

/-- A request leaves nothing of the one before it (R57, R60). -/
@[simp] theorem finish_finish (s : State) (e e' : Except Failure Completion) :
    finish (finish s e) e' = finish s e' := by
  cases e with
  | error f => cases e' <;> rfl
  | ok c => cases e' <;> rfl

/-! What CLASSIFY and PARSE leave in the registers. -/

theorem exec_classify (img : Bytes 16) (s : State) :
    exec (.classify img) s = .next (finish s (classify s.params img)) :=
  exec_eq_finish _ s

theorem exec_parseIn (ph : Phase) (img : Bytes 16) (s : State) :
    exec (parseIn ph img) s = .next (finish s (parseFrame s.params img ph)) := by
  cases ph with
  | init => exact exec_eq_finish _ s
  | seg => exact exec_eq_finish _ s
  | gen => exact exec_eq_finish _ s

/-- The status a frame ends CLASSIFY and PARSE with: its failure's, or its class's (R111, R113, R115). -/
def frameStat (q : Params) (img : Bytes 16) : BitVec 5 :=
  match frameFailure q img with
  | some f => packStat 0#1 (codeNum (failureCode f))
  | none => statOfClass (classOf q (frameHdr q img).fc)

theorem frameStat_of_failure {q : Params} {img : Bytes 16} {f : Failure} (h : frameFailure q img = some f) :
    frameStat q img = packStat 0#1 (codeNum (failureCode f)) := by
  rw [frameStat, h]

theorem frameStat_of_pass {q : Params} {img : Bytes 16} (h : frameFailure q img = none) :
    frameStat q img = statOfClass (classOf q (frameHdr q img).fc) := by
  rw [frameStat, h]

section Registers

variable (s : State) (q : Params) (img : Bytes 16) (ph : Phase)

theorem finish_classify_stat : (finish s (classify q img)).stat = frameStat q img := by
  cases hf : frameFailure q img with
  | some f => rw [classify_of_failure hf, frameStat_of_failure hf, finish_error, raiseStatus_stat]
  | none => rw [classify_of_pass hf, frameStat_of_pass hf, finish_ok, completeWith_stat, packStat_completionCode]

theorem finish_parseFrame_stat : (finish s (parseFrame q img ph)).stat = frameStat q img := by
  cases hf : frameFailure q img with
  | some f => rw [parseFrame_of_failure ph hf, frameStat_of_failure hf, finish_error, raiseStatus_stat]
  | none => rw [parseFrame_of_pass ph hf, frameStat_of_pass hf, finish_ok, completeWith_stat, packStat_completionCode]

theorem finish_classify_res_eq_none : (finish s (classify q img)).res = none ↔ frameFailure q img ≠ none := by
  cases hf : frameFailure q img with
  | some f => simp [classify_of_failure hf]
  | none => simp [classify_of_pass hf]

theorem finish_parseFrame_res_eq_none : (finish s (parseFrame q img ph)).res = none ↔ frameFailure q img ≠ none := by
  cases hf : frameFailure q img with
  | some f => simp [parseFrame_of_failure ph hf]
  | none => simp [parseFrame_of_pass ph hf]

end Registers

/-- The header CLASSIFY gives is the image's. -/
theorem eq_frameHdr_of_classified {s : State} {q : Params} {img : Bytes 16} {h : Hdr}
    (hres : (finish s (classify q img)).res = some (.classified h)) : h = frameHdr q img := by
  cases hf : frameFailure q img with
  | some f => rw [classify_of_failure hf] at hres; cases hres
  | none => rw [classify_of_pass hf] at hres; cases hres; rfl

/-- The header PARSE gives is the image's, whatever the phase. -/
theorem eq_frameHdr_of_parsed {s : State} {q : Params} {img : Bytes 16} {ph : Phase} {h : Hdr} {p : Payload} {d : Drv}
    (hres : (finish s (parseFrame q img ph)).res = some (.parsed h p d)) : h = frameHdr q img := by
  cases hf : frameFailure q img with
  | some f => rw [parseFrame_of_failure ph hf] at hres; cases hres
  | none => rw [parseFrame_of_pass ph hf] at hres; cases hres; rfl

/-! The identifier's fields as numbers. -/

/-- The 11-bit identifier is 128 times the function code plus the node id (R78). -/
theorem id11_toNat (v : BitVec 11) : v.toNat = 128 * (id11Fc v).toNat + (id11Node v).toNat := by
  simp only [id11Fc, id11Node, BitVec.extractLsb_toNat, Nat.shiftRight_eq_div_pow]
  omega

/-- The function code from the two bytes it stands in (R65). -/
theorem fc_bytes_toNat (lo hi : Byte) :
    (hi.extractLsb 2 0 ++ lo.extractLsb 7 7 : BitVec 4).toNat = 2 * (hi.toNat % 8) + lo.toNat / 128 := by
  have hlo := lo.isLt
  rw [BitVec.toNat_append, ← Nat.shiftLeft_add_eq_or_of_lt (lo.extractLsb 7 7).isLt]
  simp only [BitVec.extractLsb_toNat, Nat.shiftRight_eq_div_pow, Nat.shiftLeft_eq]
  omega

/-! The first 5 bytes of an image are its identifier field and its length (R50). -/

theorem imgIdWord_congr {img img' : Bytes 16} (h : ∀ (k : Nat) (_ : k < 4), img[k] = img'[k]) :
    imgIdWord img = imgIdWord img' := by
  simp only [imgIdWord_eq_le32, le32_eq_append, h 0 (by decide), h 1 (by decide), h 2 (by decide), h 3 (by decide)]

theorem frameHdr_fc (q : Params) (img : Bytes 16) : (frameHdr q img).fc = id11Fc (idId11 (imgIdWord img)) := rfl

section FirstBytes

variable {img img' : Bytes 16} (q : Params) (hid : imgIdWord img = imgIdWord img') (hdlc : imgDlc img = imgDlc img')
include hid hdlc

theorem frameFailure_congr : frameFailure q img = frameFailure q img' := by
  rw [frameFailure, frameFailure, hid, hdlc]

theorem frameHdr_with_raw : { frameHdr q img with raw := imgData img' } = frameHdr q img' := by
  rw [frameHdr, frameHdr, hid, hdlc]

theorem frameStat_congr : frameStat q img = frameStat q img' := by
  rw [frameStat, frameStat, frameFailure_congr q hid hdlc, frameHdr_fc, frameHdr_fc, hid]

end FirstBytes

/-! The obligations. -/

/-- Settles O16: both times the request ends with one outcome, since the first leaves the parameters as they are, and the
second end overwrites the first. -/
theorem presentingARequestTwiceChangesNothing : Obligations.PresentingARequestTwiceChangesNothing := by
  intro r s t ht
  rw [presentRequest_eq_finish] at ht
  cases ht
  rw [presentRequest_eq_finish, finish_params, finish_finish]

/-- Settles O28: the header is the image's, and its fields are read from the image's bytes. -/
theorem identifierFieldsReadAsBytes : Obligations.IdentifierFieldsReadAsBytes := by
  intro img s t h ht hres
  rw [exec_classify] at ht
  cases ht
  cases eq_frameHdr_of_classified hres
  obtain ⟨hnode, hfc, hrtr⟩ := id_fields_from_bytes img
  refine ⟨hnode, ?_, hrtr, id11_toNat _⟩
  calc (id11Fc (idId11 (imgIdWord img))).toNat
    _ = (img[1].extractLsb 2 0 ++ img[0].extractLsb 7 7 : BitVec 4).toNat := by rw [hfc]
    _ = 2 * (img[1].toNat % 8) + img[0].toNat / 128 := fc_bytes_toNat img[0] img[1]

/-- Settles O30: the status, whether there is a result, and the header but for `raw` come from the identifier field and
the length, which stand in the first 5 bytes. -/
theorem payloadBytesNeverDecideStatusOrHeader : Obligations.PayloadBytesNeverDecideStatusOrHeader := by
  intro img img' s t t' hbytes ht ht'
  have hid : imgIdWord img = imgIdWord img' := imgIdWord_congr fun k hk => hbytes k (by omega)
  have hdlc : imgDlc img = imgDlc img' := by rw [imgDlc_eq, imgDlc_eq, hbytes 4 (by decide)]
  have hfail := frameFailure_congr s.params hid hdlc
  have hstat := frameStat_congr s.params hid hdlc
  have hhdr := frameHdr_with_raw s.params hid hdlc
  rw [exec_classify] at ht ht'
  cases ht
  cases ht'
  simp only [finish_classify_stat, finish_classify_res_eq_none]
  refine ⟨hstat, by rw [hfail], ?_, ?_⟩
  · intro h h' hres hres'
    cases eq_frameHdr_of_classified hres
    cases eq_frameHdr_of_classified hres'
    exact hhdr
  · intro ph u u' hu hu'
    rw [exec_parseIn] at hu hu'
    cases hu
    cases hu'
    simp only [finish_parseFrame_stat, finish_parseFrame_res_eq_none]
    refine ⟨hstat, trivial, by rw [hfail], ?_⟩
    intro h h' p p' d d' hres hres'
    cases eq_frameHdr_of_parsed hres
    cases eq_frameHdr_of_parsed hres'
    exact hhdr

end Sys2Proof.Machine
end

section
/-! The encoding of requests and the layouts of frames and payloads (30_encoding.md): the decoder and the encoder are each
other's inverse, and what R74 and R75 say of command bytes and operand records follows from that; the padding bytes of an
image; and the SDO layouts, read by DECODE and written by ENCODE. -/

open Sys2Proof.Claims

namespace Sys2Proof.Machine

/-! Decoding a request: its command byte first, then its operand record. -/

theorem decode_of_op {r : Request} {op : Op} (h : decodeOp r.cmd = .ok op) : decode r = bindOperand op r.operand := by
  rw [decode, h]

theorem decode_of_illegal_command {r : Request} {e : DecodeError} (h : decodeOp r.cmd = .error e) :
    decode r = .error e := by
  rw [decode, h]

/-- A command byte names an operation exactly where it is the operation's (R74). -/
theorem decodeOp_eq_ok_iff {c : Byte} {op : Op} : decodeOp c = .ok op ↔ c = opCmd op := by
  constructor
  · exact eq_opCmd_of_decodeOp op c
  · rintro rfl
    exact decodeOp_opCmd op

theorem decode_encode (i : Instr) : decode (encode i) = .ok i := by
  have hop : decodeOp (encode i).cmd = .ok (instrOp i) := decodeOp_opCmd (instrOp i)
  rw [decode_of_op hop]
  exact bindOperand_instr i

theorem eq_encode_of_decode {r : Request} {i : Instr} (h : decode r = .ok i) : r = encode i := by
  cases hop : decodeOp r.cmd with
  | error e => rw [decode_of_illegal_command hop] at h; cases h
  | ok op =>
    rw [decode_of_op hop] at h
    obtain ⟨rfl, hoperand⟩ := bindOperand_spec h
    rw [encode, hoperand, ← decodeOp_eq_ok_iff.mp hop]

theorem decode_eq_ok_iff {r : Request} {i : Instr} : decode r = .ok i ↔ r = encode i := by
  constructor
  · exact eq_encode_of_decode
  · rintro rfl
    exact decode_encode i

/-- A request whose command byte names no operation raises ILLEGAL_REQUEST, whatever its operand (R206). -/
theorem presentRequest_of_illegal_command {c : Byte} {e : DecodeError} (h : decodeOp c = .error e) (x : Operand)
    (s : State) : presentRequest ⟨c, x⟩ s = .next (raiseStatus s (.illegalRequest c)) := by
  rw [presentRequest_eq_finish, requestOutcome_of_error (decode_of_illegal_command (r := ⟨c, x⟩) h), finish_error]

/-! The table of the nine command bytes (R74). -/

/-- The nine operations, in the order of R74's table. -/
def allOps : List Op :=
  [.classify, .decodeInit, .decodeSeg, .decodeGen, .parseInit, .parseSeg, .parseGen, .encode, .pack]

theorem mem_allOps (op : Op) : op ∈ allOps := by
  cases op <;> decide

theorem commandTable_eq_map : commandTable = allOps.map fun op => (opCmd op, op.mnemonic) := rfl

/-- No two operations share a mnemonic (R93). -/
theorem mnemonic_injective : Function.Injective Op.mnemonic := by
  have hnodup : (allOps.map Op.mnemonic).Nodup := by decide
  intro op op' h
  exact List.inj_on_of_nodup_map hnodup (mem_allOps op) (mem_allOps op') h

theorem mem_commandTable_iff {c : Byte} {op : Op} : (c, op.mnemonic) ∈ commandTable ↔ c = opCmd op := by
  rw [commandTable_eq_map, List.mem_map]
  constructor
  · rintro ⟨op', -, h⟩
    obtain ⟨hc, hname⟩ := Prod.mk.inj h
    rw [← hc, mnemonic_injective hname]
  · rintro rfl
    exact ⟨op, mem_allOps op, rfl⟩

/-- The bytes of the table are those that name an operation. -/
theorem mem_commandBytes_iff {c : Byte} : c ∈ commandTable.map Prod.fst ↔ ∃ op, decodeOp c = .ok op := by
  rw [commandTable_eq_map, List.map_map, List.mem_map]
  constructor
  · rintro ⟨op, -, rfl⟩
    exact ⟨op, decodeOp_opCmd op⟩
  · rintro ⟨op, h⟩
    exact ⟨op, mem_allOps op, (decodeOp_eq_ok_iff.mp h).symm⟩

theorem cmdLegal_iff {c : Byte} : cmdLegal c = true ↔ ∃ op, decodeOp c = .ok op := by
  rw [← decodeOp_isOk_iff_cmdLegal]
  cases decodeOp c with
  | error e => simp [Except.isOk, Except.toBool]
  | ok op => simp [Except.isOk, Except.toBool]

/-- A command byte of 32 or more has a reserved bit set (R71). -/
theorem cmdLegal_eq_false_of_le {n : Nat} (h : 32 ≤ n) (hn : n < 256) : cmdLegal (BitVec.ofNat 8 n) = false := by
  have hrsv : rsvClear (BitVec.ofNat 8 n) = false := by
    simp [rsvClear, Nat.mod_eq_of_lt hn, h]
  rw [cmdLegal, hrsv, Bool.false_and, Bool.false_and, Bool.false_and]

/-- Of the 256 bytes 247 are not legal: 23 of those below 32, and all 224 above. -/
theorem length_illegal_commands : ((List.range 256).filter fun n => !cmdLegal (BitVec.ofNat 8 n)).length = 247 := by
  have hsplit : List.range 256 = List.range 32 ++ (List.range 224).map (32 + ·) := List.range_add (n := 32) (m := 224)
  have hlow : ((List.range 32).filter fun n => !cmdLegal (BitVec.ofNat 8 n)).length = 23 := by decide
  have hhigh : ∀ n ∈ (List.range 224).map (32 + ·), (!cmdLegal (BitVec.ofNat 8 n)) = true := by
    intro n hn
    obtain ⟨k, hk, rfl⟩ := List.mem_map.mp hn
    have hk := List.mem_range.mp hk
    rw [cmdLegal_eq_false_of_le (by omega) (by omega), Bool.not_false]
  rw [hsplit, List.filter_append, List.length_append, hlow, List.filter_eq_self.mpr hhigh, List.length_map,
    List.length_range]

/-! Legal requests (R74, R75). -/

theorem legal_encode (i : Instr) : legal (encode i) = true := by
  cases i <;> rfl

/-- A legal request is an instruction's encoding: its operand record and its command byte tell which. -/
theorem exists_eq_encode_of_legal {r : Request} (h : legal r = true) : ∃ i, r = encode i := by
  obtain ⟨c, x⟩ := r
  cases x with
  | rawImg img =>
    have hc : c = 0x00#8 ∨ c = 0x02#8 ∨ c = 0x0A#8 ∨ c = 0x12#8 := by simpa [legal] using h
    obtain rfl | rfl | rfl | rfl := hc
    · exact ⟨.classify img, rfl⟩
    · exact ⟨.parseInit img, rfl⟩
    · exact ⟨.parseSeg img, rfl⟩
    · exact ⟨.parseGen img, rfl⟩
  | decIn fc dlen b =>
    have hc : c = 0x01#8 ∨ c = 0x09#8 ∨ c = 0x11#8 := by simpa [legal] using h
    obtain rfl | rfl | rfl := hc
    · exact ⟨.decodeInit fc dlen b, rfl⟩
    · exact ⟨.decodeSeg fc dlen b, rfl⟩
    · exact ⟨.decodeGen fc dlen b, rfl⟩
  | encIn p =>
    obtain rfl : c = 0x03#8 := by simpa [legal] using h
    exact ⟨.encode p, rfl⟩
  | frameIn rtr fc node dlen p =>
    obtain rfl : c = 0x04#8 := by simpa [legal] using h
    exact ⟨.pack rtr fc node dlen p, rfl⟩

/-! The padding bytes of an image (R91): CLASSIFY and PARSE look at the identifier field, the length and the payload. -/

theorem imgData_congr {img img' : Bytes 16} (h : ∀ (k : Nat) (_ : k < 16), 8 ≤ k → img[k] = img'[k]) :
    imgData img = imgData img' := by
  simp only [imgData, h 8, h 9, h 10, h 11, h 12, h 13, h 14, h 15, Nat.reduceLeDiff]

section MeaningfulBytes

variable {img img' : Bytes 16} (q : Params) (hid : imgIdWord img = imgIdWord img') (hdlc : imgDlc img = imgDlc img')
  (hdata : imgData img = imgData img')
include hid hdlc hdata

theorem frameHdr_congr : frameHdr q img = frameHdr q img' := by
  rw [frameHdr, frameHdr, hid, hdlc, hdata]

theorem classify_congr : classify q img = classify q img' := by
  rw [classify, classify, frameFailure_congr q hid hdlc, frameHdr_congr q hid hdlc hdata]

theorem parseFrame_congr (ph : Phase) : parseFrame q img ph = parseFrame q img' ph := by
  rw [parseFrame, parseFrame, frameFailure_congr q hid hdlc, frameHdr_congr q hid hdlc hdata]

end MeaningfulBytes

/-- Where `RES` holds a result after a request, the request completed with it. -/
theorem eq_ok_of_finish_res {s : State} {e : Except Failure Completion} {r : Result}
    (h : (finish s e).res = some r) : ∃ code, e = .ok ⟨code, r⟩ := by
  cases e with
  | error f => cases h
  | ok c => cases h; exact ⟨c.code, rfl⟩

/-- PACK's padding is zero because every packed image is coherent (R66). -/
theorem padding_of_packed {q : Params} {rtr : Bit} {fc : BitVec 4} {node : BitVec 7} {dlen : Byte} {p : Payload}
    {code : Code} {img : Bytes 16} (h : packFrame q rtr fc node dlen p = .ok ⟨code, .packed img⟩) :
    img[5] = 0#8 ∧ img[6] = 0#8 ∧ img[7] = 0#8 := by
  obtain ⟨-, -, -, h5, h6, h7, -⟩ := packFrame_coherent h
  exact ⟨h5, h6, h7⟩

/-! DECODE of an SDO payload. -/

/-- A request that completes with OK leaves its result and `STAT = {1, OK}`, and nothing else (R17, R201). -/
theorem completeWith_ok (s : State) (r : Result) :
    completeWith s ⟨.ok, r⟩ = { s with res := some r, stat := 0x10#5 } := by
  rw [completeWith, packStat_ok]

theorem exec_decodeIn (ph : Phase) (fc : BitVec 4) (dlen : Byte) (b : Bytes 8) (s : State) :
    exec (decodeIn ph fc dlen b) s = .next (finish s (decodePayload s.params fc dlen b ph)) := by
  cases ph with
  | init => exact exec_eq_finish _ s
  | seg => exact exec_eq_finish _ s
  | gen => exact exec_eq_finish _ s

theorem decPayload_of_isSdo {cls : FcClass} (h : isSdo cls) (dlen : Byte) (b : Bytes 8) (ph : Phase) :
    decPayload cls dlen b ph = readSdo b ph := by
  obtain rfl | rfl := h <;> rfl

theorem completionCode_of_isSdo {cls : FcClass} (h : isSdo cls) : completionCode cls = .ok := by
  obtain rfl | rfl := h <;> rfl

/-- DECODE of an SDO payload completes with the layout its phase selects (R141, R155). -/
theorem exec_decodeIn_of_isSdo {fc : BitVec 4} {dlen : Byte} {s : State} (hlen : dlen.toNat ≤ 8)
    (hsdo : isSdo (classOf s.params fc)) (ph : Phase) (b : Bytes 8) :
    exec (decodeIn ph fc dlen b) s =
      .next { s with res := some (.decoded (readSdo b ph) (drv (readSdo b ph))), stat := 0x10#5 } := by
  have hshort : ¬ 8#8 < dlen := by rw [eight_lt_iff]; omega
  rw [exec_decodeIn, decodePayload_of_short hshort, decPayload_of_isSdo hsdo, completionCode_of_isSdo hsdo, finish_ok,
    completeWith_ok]

/-- All three layouts hold the command specifier in the same bits (R87). -/
theorem specifierOf_readSdo (b : Bytes 8) (ph : Phase) : specifierOf (readSdo b ph) = some (b[0].extractLsb 7 5) := by
  cases ph <;> rfl

/-! ENCODE of an SDO payload. -/

/-- ENCODE of a payload of length 8 completes with its bytes (R161). -/
theorem exec_encode_of_encLen {p : Payload} (h : encLen p = 8#8) (s : State) :
    exec (.encode p) s = .next { s with res := some (.encoded (encBytes p) 8#8), stat := 0x10#5 } := by
  have hshort : ¬ 8#8 < encLen p := by rw [h]; decide
  rw [exec_eq_finish, outcomeOf, encodePayload, if_neg hshort, h, finish_ok, completeWith_ok]

theorem encLen_readSdo (b : Bytes 8) (ph : Phase) : encLen (readSdo b ph) = 8#8 := by
  cases ph <;> rfl

/-- ENCODE of what DECODE read from the bytes gives them back, the reserved bits included (R90, R163). -/
theorem exec_encode_readSdo (b : Bytes 8) (ph : Phase) (s : State) :
    exec (.encode (readSdo b ph)) s = .next { s with res := some (.encoded b 8#8), stat := 0x10#5 } := by
  rw [exec_encode_of_encLen (encLen_readSdo b ph), encBytes_readSdo]

/-- The initiate command byte is the sum of its fields by weight, since each field is read back from its bits (R81). -/
theorem initByte_toNat (z e : Bit) (n : BitVec 2) (x : Bit) (cs : BitVec 3) :
    (initByte z e n x cs).toNat = 32 * cs.toNat + 16 * x.toNat + 4 * n.toNat + 2 * e.toNat + z.toNat := by
  have hlt := (initByte z e n x cs).isLt
  have hfields := fields_of_initByte z e n x cs
  simp only [← BitVec.toNat_inj, BitVec.extractLsb_toNat, Nat.shiftRight_eq_div_pow] at hfields
  omega

theorem segByte_toNat (z : Bit) (n : BitVec 3) (t : Bit) (cs : BitVec 3) :
    (segByte z n t cs).toNat = 32 * cs.toNat + 16 * t.toNat + 2 * n.toNat + z.toNat := by
  have hlt := (segByte z n t cs).isLt
  have hfields := fields_of_segByte z n t cs
  simp only [← BitVec.toNat_inj, BitVec.extractLsb_toNat, Nat.shiftRight_eq_div_pow] at hfields
  omega

theorem genByte_toNat (rsv : BitVec 5) (cs : BitVec 3) : (genByte rsv cs).toNat = 32 * cs.toNat + rsv.toNat := by
  have hlt := (genByte rsv cs).isLt
  have hfields := fields_of_genByte rsv cs
  simp only [← BitVec.toNat_inj, BitVec.extractLsb_toNat, Nat.shiftRight_eq_div_pow] at hfields
  omega

/-- The index is written low byte, then high byte (R54, R79). -/
theorem indexedBytes_eq (cmd : Byte) (index : BitVec 16) (sub : Byte) (data : Bytes 4) :
    indexedBytes cmd index sub data =
      #v[cmd, BitVec.ofNat 8 index.toNat, BitVec.ofNat 8 (index.toNat / 256), sub, data[0], data[1], data[2], data[3]] := by
  have hlo : index.extractLsb 7 0 = BitVec.ofNat 8 index.toNat := rfl
  have hhi : index.extractLsb 15 8 = BitVec.ofNat 8 (index.toNat / 256) := by
    apply BitVec.eq_of_toNat_eq
    simp [BitVec.extractLsb_toNat, Nat.shiftRight_eq_div_pow]
  rw [indexedBytes, hlo, hhi]

/-! The obligations. -/

/-- Settles O7: each direction is one of the two round trips. -/
theorem decodeAndEncodeAgree : Obligations.DecodeAndEncodeAgree := fun _ _ => decode_eq_ok_iff

/-- Settles O5: the table is the operations with their command bytes and mnemonics, and a byte that names no operation is
an illegal request. -/
theorem exactlyNineCommandBytesAreLegal : Obligations.ExactlyNineCommandBytesAreLegal := by
  refine ⟨fun c op => ?_, fun c hc x s => ?_, length_illegal_commands, fun c => ?_⟩
  · rw [decodeOp_eq_ok_iff, mem_commandTable_iff]
  · cases hop : decodeOp c with
    | error e => exact presentRequest_of_illegal_command hop x s
    | ok op => exact absurd (mem_commandBytes_iff.mpr ⟨op, hop⟩) hc
  · rw [cmdLegal_iff, mem_commandBytes_iff]

/-- Settles O6: the requests that decode are the encodings, and those are the legal requests. -/
theorem requestDecodesExactlyWhenLegal : Obligations.RequestDecodesExactlyWhenLegal := by
  intro r
  constructor
  · rintro ⟨i, h⟩
    rw [eq_encode_of_decode h]
    exact legal_encode i
  · intro h
    obtain ⟨i, rfl⟩ := exists_eq_encode_of_legal h
    exact ⟨i, decode_encode i⟩

/-- Settles O27: the bytes that decide CLASSIFY and PARSE are the others, and a packed image is coherent. -/
theorem paddingIsIgnoredAndWrittenAsZero : Obligations.PaddingIsIgnoredAndWrittenAsZero := by
  constructor
  · intro img img' s hbytes
    have hid : imgIdWord img = imgIdWord img' := imgIdWord_congr fun k hk => hbytes k (by omega) (by omega)
    have hdlc : imgDlc img = imgDlc img' := by rw [imgDlc_eq, imgDlc_eq, hbytes 4 (by decide) (by decide)]
    have hdata : imgData img = imgData img' := imgData_congr fun k hk hk8 => hbytes k hk (by omega)
    constructor
    · rw [exec_classify, exec_classify, classify_congr _ hid hdlc hdata]
    · intro ph
      rw [exec_parseIn, exec_parseIn, parseFrame_congr _ hid hdlc hdata]
  · intro rtr fc node dlen p s t img ht hres
    rw [exec_eq_finish] at ht
    cases ht
    obtain ⟨code, hpack⟩ := eq_ok_of_finish_res hres
    exact padding_of_packed hpack

/-- Settles O39: DECODE completes with its phase's layout, and each layout holds the specifier. -/
theorem commandSpecifierIsReportedInEveryPhase : Obligations.CommandSpecifierIsReportedInEveryPhase :=
  fun ph _ _ b _ hlen hsdo => ⟨_, _, _, exec_decodeIn_of_isSdo hlen hsdo ph b, rfl, specifierOf_readSdo b ph⟩

/-- Settles O45: ENCODE of each SDO variant completes with its bytes, and its command byte is the sum of its fields. -/
theorem encodeWritesTheSdoLayouts : Obligations.EncodeWritesTheSdoLayouts := by
  refine ⟨fun z e n x cs index sub data s => ⟨initByte z e n x cs, ?_, initByte_toNat z e n x cs⟩,
    fun z n t cs seg s => ⟨segByte z n t cs, ?_, segByte_toNat z n t cs⟩,
    fun rsv cs index sub data s => ⟨genByte rsv cs, ?_, genByte_toNat rsv cs⟩⟩
  · rw [exec_encode_of_encLen rfl, encBytes, indexedBytes_eq]
  · rw [exec_encode_of_encLen rfl, encBytes]
  · rw [exec_encode_of_encLen rfl, encBytes, indexedBytes_eq]

/-- Settles O47: the reserved bits are those of byte 0 in the layout read, and ENCODE gives all 8 bytes back. -/
theorem reservedPayloadBitsAreKeptVerbatim : Obligations.ReservedPayloadBitsAreKeptVerbatim := by
  intro fc dlen b s hlen hsdo ph hph
  refine ⟨_, _, _, _, _, _, exec_decodeIn_of_isSdo hlen hsdo ph b, rfl, rfl, exec_encode_readSdo b ph _, rfl, rfl, ?_⟩
  cases ph with
  | init => exact ⟨rfl, rfl⟩
  | seg => exact absurd hph (by decide)
  | gen => exact ⟨rfl, rfl⟩

/-- Settles O8: each request written out is the encoding of its instruction. -/
theorem writtenOutCommandBytesDecode : Obligations.WrittenOutCommandBytesDecode := fun img fc dlen b p rtr node =>
  ⟨decode_encode (.classify img), decode_encode (.decodeSeg fc dlen b), decode_encode (.parseGen img),
    decode_encode (.encode p), decode_encode (.pack rtr fc node dlen p)⟩

/-- Settles O31, by the 16 entries of the table. -/
theorem defaultClassesFollowThePredefinedSet : Obligations.DefaultClassesFollowThePredefinedSet := by
  unfold Obligations.DefaultClassesFollowThePredefinedSet
  decide

end Sys2Proof.Machine
end

section
/-! The frame codec (40_frame_codec.md): the helpers of the statements are the model's own functions, so a frame that
passes the checks ends CLASSIFY, PARSE and PACK as the spec says; a request raises MALFORMED_DLC exactly where the length
it carries is above 8; and PACK writes the identifier's fields where CLASSIFY reads them. -/

open Sys2Proof.Claims

namespace Sys2Proof.Machine

/-! The statements' helpers and the model's functions. -/

theorem fcOf_eq (img : Bytes 16) : fcOf img = id11Fc (idId11 (imgIdWord img)) := by
  rw [imgIdWord_eq_le32]
  apply BitVec.eq_of_getLsbD_eq
  intro i hi
  simp only [fcOf, id11Fc, idId11, BitVec.getLsbD_extractLsb]
  interval_cases i <;> simp

theorem id11Node_idId11 (w : Word) : id11Node (idId11 w) = w.extractLsb 6 0 := by
  apply BitVec.eq_of_getLsbD_eq
  intro i hi
  simp only [id11Node, idId11, BitVec.getLsbD_extractLsb]
  interval_cases i <;> simp

theorem payloadBytes_eq (img : Bytes 16) : payloadBytes img = imgData img := by
  apply Vector.ext
  rw [forall_lt_eight]
  simp [payloadBytes, imgData]

theorem tagOf_eq (cls : FcClass) : tagOf cls = typeTag cls := by
  cases cls <;> rfl

theorem sdoDirOf_eq (cls : FcClass) : sdoDirOf cls = if cls = .sdoReq then 1#1 else 0#1 := by
  cases cls <;> rfl

theorem headerOf_eq (q : Params) (img : Bytes 16) : headerOf q img = frameHdr q img := by
  simp only [headerOf, frameHdr, fcOf_eq, tagOf_eq, sdoDirOf_eq, payloadBytes_eq, id11Node_idId11, imgIdWord_eq_le32,
    imgDlc_eq]
  rfl

theorem matchesClass_eq (cls : FcClass) (p : Payload) : matchesClass cls p = compatible cls p := by
  cases p <;> cases cls <;> rfl

theorem frameFailure_eq_none_iff_frameOk {q : Params} {img : Bytes 16} : frameFailure q img = none ↔ frameOk q img := by
  rw [frameFailure_eq_none, imgDlc_eq, imgIdWord_eq_le32, eight_lt_iff, Nat.not_lt]
  rfl

/-! What a failing request leaves in the registers (R201, R205). -/

theorem raiseStatus_malformedDlc (s : State) (len : Byte) :
    raiseStatus s (.malformedDlc len) = { s with res := none, stat := 0x01#5 } := by
  rw [raiseStatus, failureCode, packStat_malformedDlc]

theorem raiseStatus_malformedId (s : State) (w : Word) :
    raiseStatus s (.malformedId w) = { s with res := none, stat := 0x02#5 } := by
  rw [raiseStatus, failureCode, packStat_malformedId]

theorem raiseStatus_variantMismatch (s : State) (fc : BitVec 4) :
    raiseStatus s (.variantMismatch fc) = { s with res := none, stat := 0x05#5 } := by
  rw [raiseStatus, failureCode, packStat_variantMismatch]

/-! What a request that passes its checks leaves in the registers. -/

/-- A request that completes with its class's code leaves its result and its class's status, and nothing else (R115). -/
theorem completeWith_completionCode (s : State) (cls : FcClass) (r : Result) :
    completeWith s ⟨completionCode cls, r⟩ = { s with res := some r, stat := doneStat cls } := by
  rw [completeWith, packStat_completionCode]
  rfl

theorem exec_classify_of_frameOk {img : Bytes 16} {s : State} (h : frameOk s.params img) :
    exec (.classify img) s = .next { s with
      res := some (.classified (frameHdr s.params img)), stat := doneStat (classOf s.params (fcOf img)) } := by
  rw [exec_classify, classify_of_pass (frameFailure_eq_none_iff_frameOk.mpr h), finish_ok, completeWith_completionCode,
    frameHdr_fc, fcOf_eq]

theorem exec_parseIn_of_frameOk {img : Bytes 16} {s : State} (ph : Phase) (h : frameOk s.params img) :
    exec (parseIn ph img) s = .next { s with
      res := some (.parsed (frameHdr s.params img)
        (decPayload (classOf s.params (fcOf img)) (imgDlc img) (imgData img) ph)
        (drv (decPayload (classOf s.params (fcOf img)) (imgDlc img) (imgData img) ph))),
      stat := doneStat (classOf s.params (fcOf img)) } := by
  rw [exec_parseIn, parseFrame_of_pass ph (frameFailure_eq_none_iff_frameOk.mpr h), finish_ok, completeWith_completionCode,
    frameHdr_fc, fcOf_eq]

/-- CLASSIFY and the three PARSE instructions of an image are CLASSIFY and PARSE in every phase. -/
theorem forall_mem_frameInstrs {P : Instr → Prop} {img : Bytes 16} (hclassify : P (.classify img))
    (hparse : ∀ ph, P (parseIn ph img)) : ∀ i ∈ [Instr.classify img, .parseInit img, .parseSeg img, .parseGen img], P i := by
  simp only [List.forall_mem_cons, List.not_mem_nil, false_implies, implies_true, and_true]
  exact ⟨hclassify, hparse .init, hparse .seg, hparse .gen⟩

section PackFrame

variable {fc : BitVec 4} {dlen : Byte} {p : Payload} (rtr : Bit) (node : BitVec 7)

theorem exec_pack_of_compatible {s : State} (hlen : dlen.toNat ≤ 8) (hp : compatible (classOf s.params fc) p = true) :
    exec (.pack rtr fc node dlen p) s = .next { s with
      res := some (.packed (packImage (packIdWord rtr fc node) dlen (encBytes p))),
      stat := doneStat (classOf s.params fc) } := by
  have hshort : ¬ 8#8 < dlen := Nat.not_lt.mpr hlen
  rw [exec_eq_finish, outcomeOf, packFrame, if_neg hshort, if_neg (by simp [hp]), finish_ok, completeWith_completionCode]

theorem packFrame_of_not_compatible {q : Params} (hlen : dlen.toNat ≤ 8) (hp : compatible (classOf q fc) p = false) :
    packFrame q rtr fc node dlen p = .error (.variantMismatch fc) := by
  have hshort : ¬ 8#8 < dlen := Nat.not_lt.mpr hlen
  rw [packFrame, if_neg hshort, if_pos hp]

end PackFrame

/-! The length check (R111, R202). -/

/-- The length a request carries: its own, or ENCODE's `enc_len`. -/
def instrLen : Instr → Byte
  | .classify img => img[4]
  | .decodeInit _ dlen _ => dlen
  | .parseInit img => img[4]
  | .encode p => encLen p
  | .pack _ _ _ dlen _ => dlen
  | .decodeSeg _ dlen _ => dlen
  | .parseSeg img => img[4]
  | .decodeGen _ dlen _ => dlen
  | .parseGen img => img[4]

@[simp] theorem instrLen_decodeIn (ph : Phase) (fc : BitVec 4) (dlen : Byte) (b : Bytes 8) :
    instrLen (decodeIn ph fc dlen b) = dlen := by
  cases ph <;> rfl

@[simp] theorem instrLen_parseIn (ph : Phase) (img : Bytes 16) : instrLen (parseIn ph img) = img[4] := by
  cases ph <;> rfl

section MalformedDlc

variable {q : Params} {len : Byte}

theorem frameFailure_eq_malformedDlc_iff {img : Bytes 16} :
    frameFailure q img = some (.malformedDlc len) ↔ 8#8 < img[4] ∧ img[4] = len := by
  rw [frameFailure, imgDlc_eq]
  split
  · next hlong => simp [hlong]
  · next hshort => split <;> simp [hshort]

theorem classify_eq_malformedDlc_iff {img : Bytes 16} :
    classify q img = .error (.malformedDlc len) ↔ 8#8 < img[4] ∧ img[4] = len := by
  rw [← frameFailure_eq_malformedDlc_iff (q := q)]
  cases hf : frameFailure q img with
  | some f => simp [classify_of_failure hf]
  | none => simp [classify_of_pass hf]

theorem parseFrame_eq_malformedDlc_iff {img : Bytes 16} {ph : Phase} :
    parseFrame q img ph = .error (.malformedDlc len) ↔ 8#8 < img[4] ∧ img[4] = len := by
  rw [← frameFailure_eq_malformedDlc_iff (q := q)]
  cases hf : frameFailure q img with
  | some f => simp [parseFrame_of_failure ph hf]
  | none => simp [parseFrame_of_pass ph hf]

theorem decodePayload_eq_malformedDlc_iff {fc : BitVec 4} {dlen : Byte} {b : Bytes 8} {ph : Phase} :
    decodePayload q fc dlen b ph = .error (.malformedDlc len) ↔ 8#8 < dlen ∧ dlen = len := by
  rw [decodePayload]
  split
  · next hlong => simp [hlong]
  · next hshort => simp [hshort]

theorem encodePayload_eq_malformedDlc_iff {p : Payload} :
    encodePayload p = .error (.malformedDlc len) ↔ 8#8 < encLen p ∧ encLen p = len := by
  rw [encodePayload]
  split
  · next hlong => simp [hlong]
  · next hshort => simp [hshort]

theorem packFrame_eq_malformedDlc_iff {rtr : Bit} {fc : BitVec 4} {node : BitVec 7} {dlen : Byte} {p : Payload} :
    packFrame q rtr fc node dlen p = .error (.malformedDlc len) ↔ 8#8 < dlen ∧ dlen = len := by
  rw [packFrame]
  split
  · next hlong => simp [hlong]
  · next hshort => split <;> simp [hshort]

/-- A request fails with MALFORMED_DLC exactly where the length it carries is above 8, and records that length. -/
theorem outcomeOf_eq_malformedDlc_iff {i : Instr} :
    outcomeOf q i = .error (.malformedDlc len) ↔ 8#8 < instrLen i ∧ instrLen i = len := by
  cases i with
  | classify img => exact classify_eq_malformedDlc_iff
  | decodeInit fc dlen b => exact decodePayload_eq_malformedDlc_iff
  | parseInit img => exact parseFrame_eq_malformedDlc_iff
  | encode p => exact encodePayload_eq_malformedDlc_iff
  | pack rtr fc node dlen p => exact packFrame_eq_malformedDlc_iff
  | decodeSeg fc dlen b => exact decodePayload_eq_malformedDlc_iff
  | parseSeg img => exact parseFrame_eq_malformedDlc_iff
  | decodeGen fc dlen b => exact decodePayload_eq_malformedDlc_iff
  | parseGen img => exact parseFrame_eq_malformedDlc_iff

end MalformedDlc

/-- Of all ends of a request, only MALFORMED_DLC leaves `STAT = 0x01` (R201). -/
theorem finish_stat_eq_malformedDlc_iff {s : State} {e : Except Failure Completion} :
    (finish s e).stat = 0x01#5 ↔ ∃ len, e = .error (.malformedDlc len) := by
  cases e with
  | error f => cases f <;> simp [failureCode]
  | ok c =>
    have hvalid : packStat 1#1 (codeNum c.code) ≠ 0x01#5 := fun h => by
      have hbit := congrArg statValid h
      rw [statValid_packStat] at hbit
      exact absurd hbit (by decide)
    simp [hvalid]

theorem exec_of_long {i : Instr} (s : State) (h : 8 < (instrLen i).toNat) :
    exec i s = .next { s with res := none, stat := 0x01#5 } := by
  rw [exec_eq_finish, outcomeOf_eq_malformedDlc_iff.mpr ⟨h, rfl⟩, finish_error, raiseStatus_malformedDlc]

theorem stat_ne_malformedDlc_of_short {i : Instr} {s t : State} (h : (instrLen i).toNat ≤ 8) (ht : exec i s = .next t) :
    t.stat ≠ 0x01#5 := by
  rw [exec_eq_finish] at ht
  cases ht
  rw [Ne, finish_stat_eq_malformedDlc_iff]
  rintro ⟨len, hlen⟩
  exact absurd (outcomeOf_eq_malformedDlc_iff.mp hlen).1 (Nat.not_lt.mpr h)

/-! The reserved identifier bits (R77, R113). -/

theorem frameFailure_eq_malformedId {q : Params} {img : Bytes 16} (hs : q.strictId = true) (hlen : img[4].toNat ≤ 8)
    (hr : le32 img 0 &&& rsvIdMask ≠ 0#32) : frameFailure q img = some (.malformedId (le32 img 0)) := by
  have hshort : ¬ 8#8 < imgDlc img := by rw [imgDlc_eq]; exact Nat.not_lt.mpr hlen
  rw [← imgIdWord_eq_le32] at hr ⊢
  exact frameFailure_of_reserved hshort hs hr

theorem idRtr_and_mask (w : Word) : idRtr (w &&& 0x400007FF#32) = idRtr w := by
  apply BitVec.eq_of_getLsbD_eq
  intro i hi
  simp only [idRtr, BitVec.getLsbD_extractLsb, BitVec.getLsbD_and]
  interval_cases i
  simp

theorem idId11_and_mask (w : Word) : idId11 (w &&& 0x400007FF#32) = idId11 w := by
  apply BitVec.eq_of_getLsbD_eq
  intro i hi
  simp only [idId11, BitVec.getLsbD_extractLsb, BitVec.getLsbD_and]
  interval_cases i <;> simp

theorem frameFailure_congr_of_not_strict {q : Params} {img img' : Bytes 16} (hs : q.strictId = false)
    (hdlc : imgDlc img = imgDlc img') : frameFailure q img = frameFailure q img' := by
  simp [frameFailure, hs, hdlc]

/-- Two images whose identifiers agree on bits 30 and 10:0 have one header. -/
theorem frameHdr_congr_of_and_mask (q : Params) {img img' : Bytes 16}
    (hid : imgIdWord img &&& 0x400007FF#32 = imgIdWord img' &&& 0x400007FF#32) (hdlc : imgDlc img = imgDlc img')
    (hdata : imgData img = imgData img') : frameHdr q img = frameHdr q img' := by
  have hrtr : idRtr (imgIdWord img) = idRtr (imgIdWord img') := by rw [← idRtr_and_mask, hid, idRtr_and_mask]
  have hid11 : idId11 (imgIdWord img) = idId11 (imgIdWord img') := by rw [← idId11_and_mask, hid, idId11_and_mask]
  rw [frameHdr, frameHdr, hrtr, hid11, hdlc, hdata]

/-! The identifier field PACK writes (R120). -/

/-- The identifier field is the sum of its fields by weight, since they stand in disjoint bits. -/
theorem packIdWord_toNat (rtr : Bit) (fc : BitVec 4) (node : BitVec 7) :
    (packIdWord rtr fc node).toNat = 2 ^ 30 * rtr.toNat + 2 ^ 7 * fc.toNat + node.toNat := by
  have hrtr := rtr.isLt
  have hfc := fc.isLt
  have hnode := node.isLt
  have hlow : fc.toNat <<< 7 + node.toNat < 2 ^ 30 := by rw [Nat.shiftLeft_eq]; omega
  have hr : (rtr.setWidth 32 <<< 30).toNat = rtr.toNat <<< 30 := by
    simp only [BitVec.toNat_shiftLeft, BitVec.toNat_setWidth, Nat.shiftLeft_eq]; omega
  have hf : (fc.setWidth 32 <<< 7).toNat = fc.toNat <<< 7 := by
    simp only [BitVec.toNat_shiftLeft, BitVec.toNat_setWidth, Nat.shiftLeft_eq]; omega
  have hn : (node.setWidth 32).toNat = node.toNat := by
    rw [BitVec.toNat_setWidth]; omega
  rw [packIdWord, BitVec.or_assoc, BitVec.toNat_or, BitVec.toNat_or, hr, hf, hn,
    ← Nat.shiftLeft_add_eq_or_of_lt hnode, ← Nat.shiftLeft_add_eq_or_of_lt hlow, Nat.shiftLeft_eq, Nat.shiftLeft_eq]
  ring

/-- With `rtr = 0` the 11-bit identifier is the whole identifier field. -/
theorem idId11_packIdWord_setWidth (fc : BitVec 4) (node : BitVec 7) :
    (idId11 (packIdWord 0#1 fc node)).setWidth 32 = packIdWord 0#1 fc node := by
  have hfc := fc.isLt
  have hnode := node.isLt
  apply BitVec.eq_of_toNat_eq
  rw [BitVec.toNat_setWidth, idId11, BitVec.extractLsb_toNat, packIdWord_toNat, Nat.shiftRight_eq_div_pow]
  simp only [BitVec.toNat_ofNat]
  omega

theorem le32_packImage (w : Word) (dlen : Byte) (b : Bytes 8) : le32 (packImage w dlen b) 0 = w := by
  rw [← imgIdWord_eq_le32, packImage_idWord]

theorem payloadBytes_packImage (w : Word) (dlen : Byte) (b : Bytes 8) : payloadBytes (packImage w dlen b) = b := by
  rw [payloadBytes_eq, packImage_data]

/-- The identifier field packed from an image's header is the image's less its reserved bits (R121). -/
theorem packIdWord_frameHdr (q : Params) (img : Bytes 16) :
    packIdWord (frameHdr q img).rtr (frameHdr q img).fc (frameHdr q img).node = le32 img 0 &&& 0x400007FF#32 := by
  rw [← imgIdWord_eq_le32]
  exact packIdWord_of_fields _

/-! The obligations. -/

/-- Settles O24: the frame passes both checks, and the statement's header is the model's. -/
theorem classifyCompletesWithTheHeader : Obligations.ClassifyCompletesWithTheHeader := by
  intro img s h
  rw [exec_classify_of_frameOk h, headerOf_eq]

/-- Settles O25: a request fails with MALFORMED_DLC exactly where the length it carries is above 8. -/
theorem lengthsAboveEightAreMalformed : Obligations.LengthsAboveEightAreMalformed := by
  refine ⟨fun img s h => ⟨?_, ?_, ?_⟩, fun img s t h => ?_, fun fc dlen b s h => ⟨?_, ?_⟩, fun fc dlen b ph s t h => ?_,
    fun b len s h => ⟨?_, ?_⟩, fun p s t h => ?_, fun rtr fc node dlen p s h => ⟨?_, ?_⟩,
    fun rtr fc node dlen p s t h => ?_⟩
  · exact forall_mem_frameInstrs (exec_of_long s h) fun ph => exec_of_long s (by rwa [instrLen_parseIn])
  · exact classify_eq_malformedDlc_iff.mpr ⟨h, rfl⟩
  · exact fun ph => parseFrame_eq_malformedDlc_iff.mpr ⟨h, rfl⟩
  · exact forall_mem_frameInstrs (stat_ne_malformedDlc_of_short h) fun ph =>
      stat_ne_malformedDlc_of_short (by rwa [instrLen_parseIn])
  · exact fun ph => exec_of_long s (by rwa [instrLen_decodeIn])
  · exact fun ph => decodePayload_eq_malformedDlc_iff.mpr ⟨h, rfl⟩
  · exact stat_ne_malformedDlc_of_short (by rwa [instrLen_decodeIn])
  · exact exec_of_long s h
  · exact encodePayload_eq_malformedDlc_iff.mpr ⟨h, rfl⟩
  · exact stat_ne_malformedDlc_of_short (encLen_le_of_opaqueRaw h)
  · exact exec_of_long s h
  · exact packFrame_eq_malformedDlc_iff.mpr ⟨h, rfl⟩
  · exact stat_ne_malformedDlc_of_short h

/-- Settles O26: a strict block fails the frame; for one that is not strict the failure depends on the length, and the
header on the identifier's other bits. -/
theorem reservedIdentifierBitsMatterOnlyWhenStrict : Obligations.ReservedIdentifierBitsMatterOnlyWhenStrict := by
  constructor
  · intro img s hs hlen hr
    have hf := frameFailure_eq_malformedId hs hlen hr
    refine ⟨forall_mem_frameInstrs ?_ fun ph => ?_, classify_of_failure hf, fun ph => parseFrame_of_failure ph hf⟩
    · rw [exec_classify, classify_of_failure hf, finish_error, raiseStatus_malformedId]
    · rw [exec_parseIn, parseFrame_of_failure ph hf, finish_error, raiseStatus_malformedId]
  · intro img img' s hs hid hbytes
    rw [← imgIdWord_eq_le32, ← imgIdWord_eq_le32] at hid
    have hdlc : imgDlc img = imgDlc img' := by rw [imgDlc_eq, imgDlc_eq, hbytes 4 (by decide) (by decide)]
    have hdata : imgData img = imgData img' := imgData_congr fun k hk hk8 => hbytes k hk (by omega)
    have hfail := frameFailure_congr_of_not_strict hs hdlc
    have hhdr := frameHdr_congr_of_and_mask s.params hid hdlc hdata
    constructor
    · rw [exec_classify, exec_classify, classify, classify, hfail, hhdr]
    · intro ph
      rw [exec_parseIn, exec_parseIn, parseFrame, parseFrame, hfail, hhdr]

/-- Settles O29: the identifier word is one PACK would write, so it has no reserved bit and its fields are read back. -/
theorem classifySplitsEveryIdentifier : Obligations.ClassifySplitsEveryIdentifier := by
  intro f n img s hid hlen
  have hword : le32 img 0 = packIdWord 0#1 f n := by rw [hid]; simp [packIdWord]
  obtain ⟨hrtr, hfc, hnode⟩ := packIdWord_fields 0#1 f n
  have hok : frameOk s.params img := ⟨hlen, fun _ => by rw [hword]; exact packIdWord_reserved 0#1 f n⟩
  refine ⟨frameHdr s.params img, ?_, ?_⟩
  · rw [exec_classify_of_frameOk hok, fcOf_eq, imgIdWord_eq_le32, hword, hfc]
  · simp only [frameHdr, imgIdWord_eq_le32, hword]
    exact ⟨hfc, hnode, idId11_packIdWord_setWidth f n, hrtr⟩

/-- Settles O48: PACK's three ends, in the order of its checks, and the fields of the image it builds. -/
theorem packBuildsTheFrameImage : Obligations.PackBuildsTheFrameImage := by
  intro rtr fc node dlen p s
  refine ⟨fun hlen hp => ?_, fun hlong => ⟨exec_of_long s hlong, packFrame_eq_malformedDlc_iff.mpr ⟨hlong, rfl⟩⟩,
    fun hlen hp => ?_⟩
  · rw [matchesClass_eq] at hp
    refine ⟨_, exec_pack_of_compatible rtr node hlen hp, ?_, rfl, rfl, rfl, rfl, payloadBytes_packImage _ _ _⟩
    rw [le32_packImage, packIdWord_toNat]
  · rw [matchesClass_eq] at hp
    have hpack := packFrame_of_not_compatible rtr node hlen hp
    refine ⟨?_, hpack⟩
    rw [exec_eq_finish, outcomeOf, hpack, finish_error, raiseStatus_variantMismatch]

/-- Settles O51: PARSE gives the payload its class selects, so PACK completes, and each variant's bytes are those read. -/
theorem packAfterParseGivesTheFrame : Obligations.PackAfterParseGivesTheFrame := by
  intro img ph s hok
  have hlen : (frameHdr s.params img).dlen.toNat ≤ 8 := imgDlc_le_of_pass (frameFailure_eq_none_iff_frameOk.mpr hok)
  have hfc : fcOf img = (frameHdr s.params img).fc := fcOf_eq img
  have hparse := exec_parseIn_of_frameOk ph hok
  rw [hfc] at hparse
  refine ⟨_, _, _, _, _, _, hparse, rfl, exec_pack_of_compatible _ _ hlen (compatible_decPayload _ _ _ _), rfl, ?_,
    imgDlc_eq img, rfl, rfl, rfl, ?_⟩
  · rw [le32_packImage, packIdWord_frameHdr]
  · rw [payloadBytes_packImage, payloadBytes_eq]
    have hsdo := encBytes_readSdo (imgData img) ph
    cases classOf s.params (frameHdr s.params img).fc with
    | nmtMc => rfl
    | nmtNg => rfl
    | sdoRsp => cases ph <;> exact hsdo
    | sdoReq => cases ph <;> exact hsdo
    | opaqueClass => rfl
    | unknown => rfl

end Sys2Proof.Machine
end

section
/-! The payload interpreter (41_payload_interpreter.md): DECODE and ENCODE of a length of at most 8 complete with the
model's `decPayload` and `encBytes`, so the statements rest on three things: the layouts of the statements are the
model's own, the derived fields read as arithmetic on the bytes, and reading and writing undo each other class by class
and variant by variant. -/

open Sys2Proof.Claims

namespace Sys2Proof.Machine

/-! DECODE and ENCODE of a length of at most 8. -/

/-- DECODE completes with the payload its class and phase select, its derived fields and its class's status, and changes
nothing else (R155). -/
theorem exec_decodeIn_of_short {fc : BitVec 4} {dlen : Byte} {s : State} (hlen : dlen.toNat ≤ 8) (ph : Phase)
    (b : Bytes 8) :
    exec (decodeIn ph fc dlen b) s = .next { s with
      res := some (.decoded (decPayload (classOf s.params fc) dlen b ph)
        (drv (decPayload (classOf s.params fc) dlen b ph))),
      stat := doneStat (classOf s.params fc) } := by
  rw [exec_decodeIn, decodePayload_of_short (Nat.not_lt.mpr hlen), finish_ok, completeWith_completionCode]

/-- ENCODE completes with the payload's bytes and length, and changes nothing else (R161). -/
theorem exec_encode_of_short {p : Payload} (hlen : (encLen p).toNat ≤ 8) (s : State) :
    exec (.encode p) s = .next { s with res := some (.encoded (encBytes p) (encLen p)), stat := 0x10#5 } := by
  have hshort : ¬ 8#8 < encLen p := Nat.not_lt.mpr hlen
  rw [exec_eq_finish, outcomeOf, encodePayload, if_neg hshort, finish_ok, completeWith_ok]

/-- The three DECODE instructions are DECODE in every phase. -/
theorem forall_mem_decodeInstrs {P : Instr → Prop} {fc : BitVec 4} {dlen : Byte} {b : Bytes 8}
    (h : ∀ ph, P (decodeIn ph fc dlen b)) :
    ∀ i ∈ [Instr.decodeInit fc dlen b, .decodeSeg fc dlen b, .decodeGen fc dlen b], P i := by
  simp only [List.forall_mem_cons, List.not_mem_nil, false_implies, implies_true, and_true]
  exact ⟨h .init, h .seg, h .gen⟩

/-- The phase has no effect where the class is not SDO (R141). -/
theorem decPayload_phase_congr {cls : FcClass} (h : ¬ isSdo cls) (dlen : Byte) (b : Bytes 8) (ph ph' : Phase) :
    decPayload cls dlen b ph = decPayload cls dlen b ph' := by
  cases cls with
  | nmtMc => rfl
  | nmtNg => rfl
  | sdoRsp => exact absurd (.inl rfl) h
  | sdoReq => exact absurd (.inr rfl) h
  | opaqueClass => rfl
  | unknown => rfl

theorem exec_decodeIn_phase_congr {fc : BitVec 4} {s : State} (h : ¬ isSdo (classOf s.params fc)) (dlen : Byte)
    (b : Bytes 8) (ph ph' : Phase) : exec (decodeIn ph fc dlen b) s = exec (decodeIn ph' fc dlen b) s := by
  rw [exec_decodeIn, exec_decodeIn, decodePayload, decodePayload, decPayload_phase_congr h dlen b ph ph']

/-! The layouts of the statements are the model's (R79 to R83). -/

theorem readSdo_init (b : Bytes 8) : readSdo b .init = initOf b := by
  rw [readSdo, readSdoInit, le16_eq_append]
  rfl

theorem readSdo_seg (b : Bytes 8) : readSdo b .seg = segOf b := rfl

theorem readSdo_gen (b : Bytes 8) : readSdo b .gen = genOf b := by
  rw [readSdo, readSdoGen, le16_eq_append]
  rfl

/-! The derived fields as arithmetic on the bytes (R149 to R153). -/

/-- `data32` is the payload's last four bytes, the last one most significant (R149). -/
theorem le32_dataBytes (b : Bytes 8) : le32 (dataBytes b) 0 = (b[7] ++ b[6] ++ b[5] ++ b[4] : BitVec 32) :=
  le32_eq_append (dataBytes b) 0 (by decide)

/-- `exp_len` by the bits `e` and `s` and the field `n` of the command byte (R150). -/
theorem expLen_toNat (c : Byte) : (expLen (c.extractLsb 0 0) (c.extractLsb 1 1) (c.extractLsb 3 2)).toNat =
    if c.getLsbD 1 then (if c.getLsbD 0 then 4 - c.toNat / 4 % 4 else 4) else 0 := by
  revert c; decide

theorem expLen_le_four (s e : Bit) (n : BitVec 2) : (expLen s e n).toNat ≤ 4 := by
  revert s e n; decide

/-- The mask that keeps the first `len` bytes of a word. -/
theorem byteMask_toNat (len : BitVec 3) (h : len.toNat < 4) :
    ((1#32 <<< (8 * len.toNat)) - 1#32).toNat = 2 ^ (8 * len.toNat) - 1 := by
  revert len; decide

/-- The first `len` data bytes as a little-endian value are the word modulo `256 ^ len` (R150). -/
theorem expValue_toNat {len : BitVec 3} (h : len.toNat ≤ 4) (v : Word) :
    (expValue len v).toNat = v.toNat % 256 ^ len.toNat := by
  unfold expValue
  split
  · next hfour => rw [hfour]; exact (Nat.mod_eq_of_lt v.isLt).symm
  · next hne =>
    have hlt : len.toNat < 4 := lt_of_le_of_ne h fun heq => hne (BitVec.eq_of_toNat_eq heq)
    rw [BitVec.toNat_and, byteMask_toNat len hlt, Nat.and_two_pow_sub_one_eq_mod, Nat.pow_mul]

/-- `size_valid` by the bits `e` and `s` of the command byte (R151). -/
theorem sizeValid_eq_one_iff (c : Byte) :
    sizeValid (c.extractLsb 0 0) (c.extractLsb 1 1) = 1#1 ↔ c.getLsbD 1 = false ∧ c.getLsbD 0 = true := by
  revert c; decide

/-- `seg_len` is what the field `n` of the command byte leaves of 7 (R152). -/
theorem segLen_toNat_add (c : Byte) : (7#3 - c.extractLsb 3 1).toNat + c.toNat / 2 % 8 = 7 := by
  revert c; decide

/-- `abort` as a comparison on the command byte (R153). -/
theorem abortFlag_specifier (c : Byte) : abortFlag (c.extractLsb 7 5) = if c.toNat / 32 = 4 then 1#1 else 0#1 := by
  revert c; decide

theorem gated_ite (P : Prop) [Decidable P] (v : Word) : gated (if P then 1#1 else 0#1) v = if P then v else 0#32 := by
  split <;> rfl

theorem drv_initOf (b : Bytes 8) :
    drv (initOf b) =
      .drvInit (b[7] ++ b[6] ++ b[5] ++ b[4])
        (expLen (b[0].extractLsb 0 0) (b[0].extractLsb 1 1) (b[0].extractLsb 3 2))
        (expValue (expLen (b[0].extractLsb 0 0) (b[0].extractLsb 1 1) (b[0].extractLsb 3 2))
          (b[7] ++ b[6] ++ b[5] ++ b[4]))
        (sizeValid (b[0].extractLsb 0 0) (b[0].extractLsb 1 1))
        (gated (sizeValid (b[0].extractLsb 0 0) (b[0].extractLsb 1 1)) (b[7] ++ b[6] ++ b[5] ++ b[4])) := by
  rw [← le32_dataBytes]
  rfl

theorem drv_genOf (b : Bytes 8) :
    drv (genOf b) =
      .drvGen (b[7] ++ b[6] ++ b[5] ++ b[4]) (if b[0].toNat / 32 = 4 then 1#1 else 0#1)
        (if b[0].toNat / 32 = 4 then b[7] ++ b[6] ++ b[5] ++ b[4] else 0#32) := by
  rw [← le32_dataBytes, ← gated_ite, ← abortFlag_specifier]
  rfl

/-! Reading and writing undo each other (R162, R163). -/

/-- What ENCODE writes for a payload, DECODE under a class it matches reads back as that payload, in the phase of its
variant (R162). -/
theorem decPayload_encBytes {cls : FcClass} {p : Payload} {ph : Phase} (hcls : matchesClass cls p = true)
    (hph : readsBack p ph) : decPayload cls (encLen p) (encBytes p) ph = p := by
  have hsdo (h : (cls == .sdoRsp || cls == .sdoReq) = true) : isSdo cls := by simpa [isSdo] using h
  cases p with
  | nmtMc cs node => cases eq_of_beq hcls; rfl
  | nmtNg state => cases eq_of_beq hcls; rfl
  | sdoInit s e n x cs index sub data =>
    cases hph
    rw [decPayload_of_isSdo (hsdo hcls)]
    exact readSdoInit_encBytes s e n x cs index sub data
  | sdoSeg c n t cs seg =>
    cases hph
    rw [decPayload_of_isSdo (hsdo hcls)]
    exact readSdoSeg_encBytes c n t cs seg
  | sdoGen rsv cs index sub data =>
    cases hph
    rw [decPayload_of_isSdo (hsdo hcls)]
    exact readSdoGen_encBytes rsv cs index sub data
  | opaqueRaw b len =>
    have hopaque : cls = .opaqueClass ∨ cls = .unknown := by simpa [matchesClass] using hcls
    obtain rfl | rfl := hopaque <;> rfl

/-! The obligations. -/

/-- Settles O49: both lengths pass their checks, and DECODE reads back what ENCODE wrote. -/
theorem decodeAfterEncodeGivesThePayload : Obligations.DecodeAfterEncodeGivesThePayload := by
  intro p fc ph s hopaque hcls hph
  have hlen : (encLen p).toNat ≤ 8 := encLen_le_of_opaqueRaw hopaque
  refine ⟨_, _, _, _, exec_encode_of_short hlen s, rfl, exec_decodeIn_of_short hlen ph _, ?_⟩
  simp only [decPayload_encBytes hcls hph]

/-- Settles O35: the layout is the initiate layout, and its derived fields are arithmetic on its bytes. -/
theorem decodeInitReadsTheInitiateLayout : Obligations.DecodeInitReadsTheInitiateLayout := by
  intro fc dlen b s hlen hsdo
  have hrun := exec_decodeIn_of_isSdo hlen hsdo .init b
  rw [readSdo_init, drv_initOf] at hrun
  exact ⟨_, _, _, _, hrun, expLen_toNat b[0], expValue_toNat (expLen_le_four _ _ _) _, sizeValid_eq_one_iff b[0], rfl⟩

/-- Settles O36: the layout is the segment layout, and `seg_len` is 7 less the field `n`. -/
theorem decodeSegReadsTheSegmentLayout : Obligations.DecodeSegReadsTheSegmentLayout :=
  fun _ _ b _ hlen hsdo => ⟨_, exec_decodeIn_of_isSdo hlen hsdo .seg b, segLen_toNat_add b[0]⟩

/-- Settles O37: the layout is the generic layout, and both abort fields hang on the command specifier. -/
theorem decodeGenReadsTheGenericLayout : Obligations.DecodeGenReadsTheGenericLayout := by
  intro fc dlen b s hlen hsdo
  rw [← drv_genOf, ← readSdo_gen]
  exact exec_decodeIn_of_isSdo hlen hsdo .gen b

/-- Settles O38: an SDO payload's layout is the phase's, three variants of the payload type; no other class looks at the
phase. -/
theorem thePhaseAloneSelectsTheLayout : Obligations.ThePhaseAloneSelectsTheLayout := by
  intro fc dlen b s
  refine ⟨fun hsdo hlen => ?_, fun hsdo =>
    ⟨exec_decodeIn_phase_congr hsdo dlen b .init .seg, exec_decodeIn_phase_congr hsdo dlen b .seg .gen⟩⟩
  have hrun := fun ph => exec_decodeIn_of_isSdo hlen hsdo ph b
  rw [← readSdo_init, ← readSdo_seg, ← readSdo_gen]
  exact ⟨⟨_, _, hrun .init, rfl⟩, ⟨_, _, hrun .seg, rfl⟩, ⟨_, _, hrun .gen, rfl⟩, nofun, nofun, nofun⟩

/-- Settles O50: ENCODE of what DECODE gave completes, and each class's variant writes the bytes it read. -/
theorem encodeAfterDecodeGivesTheBytes : Obligations.EncodeAfterDecodeGivesTheBytes := by
  intro fc dlen b ph s hlen
  refine ⟨_, _, _, _, _, _, exec_decodeIn_of_short hlen ph b, rfl,
    exec_encode_of_short (encLen_decPayload_le _ b ph hlen) _, rfl, ?_⟩
  have hsdo := encBytes_readSdo b ph
  cases classOf s.params fc with
  | nmtMc => rfl
  | nmtNg => rfl
  | sdoRsp => cases ph <;> exact hsdo
  | sdoReq => cases ph <;> exact hsdo
  | opaqueClass => rfl
  | unknown => rfl

/-- Settles O32: the class alone selects the variant and its status. -/
theorem decodeReadsAnNmtCommand : Obligations.DecodeReadsAnNmtCommand := by
  intro fc dlen b s hlen hcls
  refine forall_mem_decodeInstrs fun ph => ?_
  rw [exec_decodeIn_of_short hlen, hcls]
  rfl

/-- Settles O33: the class alone selects the variant, whose derived fields are its byte's bit 7 and bits 6:0. -/
theorem decodeReadsANodeGuardReply : Obligations.DecodeReadsANodeGuardReply := by
  intro fc dlen b s hlen hcls
  refine forall_mem_decodeInstrs fun ph => ?_
  rw [exec_decodeIn_of_short hlen, hcls]
  rfl

/-- Settles O34: either class selects the opaque variant, each with its own status. -/
theorem decodePassesOpaquePayloadsThrough : Obligations.DecodePassesOpaquePayloadsThrough := by
  intro fc dlen b s hlen hcls
  refine forall_mem_decodeInstrs fun ph => ?_
  rw [exec_decodeIn_of_short hlen]
  obtain hcls | hcls := hcls <;> rw [hcls] <;> rfl

/-- Settles O46: each of the three variants passes ENCODE's length check. -/
theorem encodeWritesNmtAndOpaquePayloads : Obligations.EncodeWritesNmtAndOpaquePayloads := fun s =>
  ⟨fun cs node => exec_encode_of_short (p := .nmtMc cs node) (by decide : (2#8).toNat ≤ 8) s,
    fun st => exec_encode_of_short (p := .nmtNg st) (by decide : (1#8).toNat ≤ 8) s,
    fun b len hlen => exec_encode_of_short (p := .opaqueRaw b len) hlen s⟩

end Sys2Proof.Machine
end

section
/-! PARSE (42_parse.md): a frame that passes the checks ends PARSE with CLASSIFY's header and the payload DECODE reads
from that header's fields, and one that fails them ends PARSE as it ends CLASSIFY. -/

open Sys2Proof.Claims

namespace Sys2Proof.Machine

/-- The payload of the statements is the model's, with the phase's layout for an SDO class (R155). -/
theorem payloadOf_readSdo (cls : FcClass) (dlen : Byte) (b : Bytes 8) (ph : Phase) :
    payloadOf cls dlen b (readSdo b ph) = decPayload cls dlen b ph := by
  cases cls <;> rfl

/-- CLASSIFY and PARSE in every phase raise the same failure (R180). -/
theorem exec_parseIn_of_failure {img : Bytes 16} {s : State} {f : Failure} (ph : Phase)
    (h : frameFailure s.params img = some f) : exec (parseIn ph img) s = exec (.classify img) s := by
  rw [exec_parseIn, exec_classify, parseFrame_of_failure ph h, classify_of_failure h]

/-- DECODE leaves `STAT` as it is where the class's status stands there already (R155). -/
theorem exec_decodeIn_of_doneStat {fc : BitVec 4} {dlen : Byte} {s : State} (hlen : dlen.toNat ≤ 8)
    (hstat : s.stat = doneStat (classOf s.params fc)) (ph : Phase) (b : Bytes 8) :
    exec (decodeIn ph fc dlen b) s = .next { s with
      res := some (.decoded (decPayload (classOf s.params fc) dlen b ph)
        (drv (decPayload (classOf s.params fc) dlen b ph))) } := by
  rw [exec_decodeIn_of_short hlen, ← hstat]

/-! The obligations. -/

/-- Settles O43: the header and the payload of the statement are the model's, in each phase. -/
theorem parseCompletesWithHeaderAndPayload : Obligations.ParseCompletesWithHeaderAndPayload := by
  intro img s hok cls p
  have hpayload (ph : Phase) : p (readSdo (payloadBytes img) ph) = decPayload cls (imgDlc img) (imgData img) ph := by
    rw [imgDlc_eq, ← payloadBytes_eq]
    exact payloadOf_readSdo _ _ _ ph
  rw [← readSdo_init, ← readSdo_seg, ← readSdo_gen, hpayload, hpayload, hpayload, headerOf_eq]
  exact ⟨exec_parseIn_of_frameOk .init hok, exec_parseIn_of_frameOk .seg hok, exec_parseIn_of_frameOk .gen hok⟩

/-- Settles O44: a frame that fails the checks raises one failure in both; one that passes them has a length DECODE
accepts, and CLASSIFY has already written the status of its class. -/
theorem parseIsClassifyThenDecode : Obligations.ParseIsClassifyThenDecode := by
  intro img ph s t ht
  cases hf : frameFailure s.params img with
  | some f =>
    have hparse : exec (parseIn ph img) s = .next t := (exec_parseIn_of_failure ph hf).trans ht
    rw [exec_classify, classify_of_failure hf, finish_error] at ht
    cases ht
    exact ⟨fun _ => hparse, nofun⟩
  | none =>
    have hok : frameOk s.params img := frameFailure_eq_none_iff_frameOk.mp hf
    have hlen : (frameHdr s.params img).dlen.toNat ≤ 8 := imgDlc_le_of_pass hf
    have hfc : fcOf img = (frameHdr s.params img).fc := fcOf_eq img
    have hparse := exec_parseIn_of_frameOk ph hok
    rw [exec_classify_of_frameOk hok] at ht
    rw [hfc] at ht hparse
    cases ht
    refine ⟨nofun, fun hdr hres => ?_⟩
    cases hres
    exact ⟨_, _, exec_decodeIn_of_doneStat hlen rfl ph _, hparse⟩

end Sys2Proof.Machine
end

section
/-! The exceptions (60_exceptions.md): the status of a request as the first condition of R209 that applies to its operand
record, said once for all nine instructions (`exec_stat`). The table of R208 and what ENCODE never reports are read off the
conditions (`firstStat_cases`); a request that is not legal never reaches them. -/

open Sys2Proof.Claims

namespace Sys2Proof.Machine

/-! The conditions of R209 on an operand record, once the request is legal. -/

/-- The status of the first condition that applies to the operand record of a legal request (R209). -/
def firstStat (q : Params) (x : Operand) : BitVec 5 :=
  bif lengthBad x then 0x01#5
  else bif idBad q x then 0x02#5
  else bif variantBad q x then 0x05#5
  else bif fcUnknown q x then 0x13#5
  else 0x10#5

/-- Each status but OK has its condition. -/
theorem firstStat_cases (q : Params) (x : Operand) :
    (lengthBad x = true ∧ firstStat q x = 0x01#5) ∨ (idBad q x = true ∧ firstStat q x = 0x02#5) ∨
      (variantBad q x = true ∧ firstStat q x = 0x05#5) ∨ (fcUnknown q x = true ∧ firstStat q x = 0x13#5) ∨
      firstStat q x = 0x10#5 := by
  unfold firstStat
  cases lengthBad x with
  | true => exact .inl ⟨rfl, rfl⟩
  | false =>
  cases idBad q x with
  | true => exact .inr (.inl ⟨rfl, rfl⟩)
  | false =>
  cases variantBad q x with
  | true => exact .inr (.inr (.inl ⟨rfl, rfl⟩))
  | false =>
  cases fcUnknown q x with
  | true => exact .inr (.inr (.inr (.inl ⟨rfl, rfl⟩)))
  | false => exact .inr (.inr (.inr (.inr rfl)))

/-- The length condition of the statements is the one on the length an instruction carries (R202). -/
theorem lengthBad_instrOperand (i : Instr) : lengthBad (instrOperand i) = decide (8 < (instrLen i).toNat) := by
  cases i with
  | encode p => cases p <;> rfl
  | _ => rfl

theorem lengthBad_encIn {p : Payload} (h : lengthBad (.encIn p) = true) : ∃ b len, p = .opaqueRaw b len := by
  cases p with
  | opaqueRaw b len => exact ⟨b, len, rfl⟩
  | _ => cases h

theorem strictId_of_idBad {q : Params} {x : Operand} (h : idBad q x = true) : q.strictId = true := by
  cases x with
  | rawImg img => exact (Bool.and_eq_true_iff.mp h).1
  | _ => cases h

theorem doneStat_eq_cond (cls : FcClass) : doneStat cls = bif cls == .unknown then 0x13#5 else 0x10#5 := by
  cases cls <;> rfl

/-! Every instruction ends with the status of its operand record. -/

section Short

variable {s t : State}

theorem frameStat_eq_firstStat {q : Params} {img : Bytes 16} (hlen : img[4].toNat ≤ 8) :
    frameStat q img = firstStat q (.rawImg img) := by
  have hshort : lengthBad (.rawImg img) = false := decide_eq_false (Nat.not_lt.mpr hlen)
  rw [firstStat, hshort, cond_false]
  cases hid : idBad q (.rawImg img) with
  | true =>
    have hr : le32 img 0 &&& rsvIdMask ≠ 0#32 := bne_iff_ne.mp (Bool.and_eq_true_iff.mp hid).2
    rw [frameStat_of_failure (frameFailure_eq_malformedId (strictId_of_idBad hid) hlen hr), failureCode,
      packStat_malformedId, cond_true]
  | false =>
    have hok : frameOk q img := ⟨hlen, fun hs => by simpa [idBad, hs] using hid⟩
    rw [frameStat_of_pass (frameFailure_eq_none_iff_frameOk.mpr hok), frameHdr_fc, ← fcOf_eq]
    exact doneStat_eq_cond _

theorem exec_classify_stat {img : Bytes 16} (hlen : img[4].toNat ≤ 8) (ht : exec (.classify img) s = .next t) :
    t.stat = firstStat s.params (.rawImg img) := by
  rw [exec_classify] at ht
  cases ht
  rw [finish_classify_stat, frameStat_eq_firstStat hlen]

theorem exec_parseIn_stat (ph : Phase) {img : Bytes 16} (hlen : img[4].toNat ≤ 8)
    (ht : exec (parseIn ph img) s = .next t) : t.stat = firstStat s.params (.rawImg img) := by
  rw [exec_parseIn] at ht
  cases ht
  rw [finish_parseFrame_stat, frameStat_eq_firstStat hlen]

theorem exec_decodeIn_stat (ph : Phase) {fc : BitVec 4} {dlen : Byte} {b : Bytes 8} (hlen : dlen.toNat ≤ 8)
    (ht : exec (decodeIn ph fc dlen b) s = .next t) : t.stat = firstStat s.params (.decIn fc dlen b) := by
  have hshort : lengthBad (.decIn fc dlen b) = false := decide_eq_false (Nat.not_lt.mpr hlen)
  rw [exec_decodeIn_of_short hlen] at ht
  cases ht
  rw [firstStat, hshort]
  exact doneStat_eq_cond _

theorem exec_encode_stat {p : Payload} (hlen : (encLen p).toNat ≤ 8) (ht : exec (.encode p) s = .next t) :
    t.stat = firstStat s.params (.encIn p) := by
  have hshort : lengthBad (.encIn p) = false :=
    (lengthBad_instrOperand (.encode p)).trans (decide_eq_false (Nat.not_lt.mpr hlen))
  rw [exec_encode_of_short hlen] at ht
  cases ht
  rw [firstStat, hshort]
  rfl

theorem exec_pack_stat {rtr : Bit} {fc : BitVec 4} {node : BitVec 7} {dlen : Byte} {p : Payload}
    (hlen : dlen.toNat ≤ 8) (ht : exec (.pack rtr fc node dlen p) s = .next t) :
    t.stat = firstStat s.params (.frameIn rtr fc node dlen p) := by
  have hshort : lengthBad (.frameIn rtr fc node dlen p) = false := decide_eq_false (Nat.not_lt.mpr hlen)
  have hvariant : variantBad s.params (.frameIn rtr fc node dlen p) = !compatible (classOf s.params fc) p := by
    rw [variantBad, matchesClass_eq]
  rw [firstStat, hshort, hvariant]
  cases hp : compatible (classOf s.params fc) p with
  | true =>
    rw [exec_pack_of_compatible rtr node hlen hp] at ht
    cases ht
    exact doneStat_eq_cond _
  | false =>
    rw [exec_eq_finish, outcomeOf, packFrame_of_not_compatible rtr node hlen hp, finish_error,
      raiseStatus_variantMismatch] at ht
    cases ht
    rfl

end Short

/-- Every instruction ends with the status of the first condition that applies to its operand record (R209). -/
theorem exec_stat {i : Instr} {s t : State} (ht : exec i s = .next t) :
    t.stat = firstStat s.params (instrOperand i) := by
  by_cases hlong : 8 < (instrLen i).toNat
  · rw [exec_of_long s hlong] at ht
    cases ht
    rw [firstStat, lengthBad_instrOperand, decide_eq_true hlong, cond_true]
  · have hlen : (instrLen i).toNat ≤ 8 := Nat.not_lt.mp hlong
    cases i with
    | classify img => exact exec_classify_stat hlen ht
    | decodeInit fc dlen b => exact exec_decodeIn_stat .init hlen ht
    | parseInit img => exact exec_parseIn_stat .init hlen ht
    | encode p => exact exec_encode_stat hlen ht
    | pack rtr fc node dlen p => exact exec_pack_stat hlen ht
    | decodeSeg fc dlen b => exact exec_decodeIn_stat .seg hlen ht
    | parseSeg img => exact exec_parseIn_stat .seg hlen ht
    | decodeGen fc dlen b => exact exec_decodeIn_stat .gen hlen ht
    | parseGen img => exact exec_parseIn_stat .gen hlen ht

/-! The statuses of each type of operand record (R208). -/

section PossibleStatuses

variable (q : Params)

theorem firstStat_rawImg (img : Bytes 16) :
    firstStat q (.rawImg img) ∈ [0x10#5, 0x01#5, 0x13#5] ∨
      (q.strictId = true ∧ firstStat q (.rawImg img) = 0x02#5) := by
  obtain ⟨-, h⟩ | ⟨hid, h⟩ | ⟨hvariant, -⟩ | ⟨-, h⟩ | h := firstStat_cases q (.rawImg img)
  · exact .inl (by simp [h])
  · exact .inr ⟨strictId_of_idBad hid, h⟩
  · cases hvariant
  · exact .inl (by simp [h])
  · exact .inl (by simp [h])

theorem firstStat_decIn (fc : BitVec 4) (dlen : Byte) (b : Bytes 8) :
    firstStat q (.decIn fc dlen b) ∈ [0x10#5, 0x01#5, 0x13#5] := by
  obtain ⟨-, h⟩ | ⟨hid, -⟩ | ⟨hvariant, -⟩ | ⟨-, h⟩ | h := firstStat_cases q (.decIn fc dlen b)
  · simp [h]
  · cases hid
  · cases hvariant
  · simp [h]
  · simp [h]

theorem firstStat_encIn (p : Payload) :
    firstStat q (.encIn p) = 0x10#5 ∨ (firstStat q (.encIn p) = 0x01#5 ∧ ∃ b len, p = .opaqueRaw b len) := by
  obtain ⟨hlength, h⟩ | ⟨hid, -⟩ | ⟨hvariant, -⟩ | ⟨hunknown, -⟩ | h := firstStat_cases q (.encIn p)
  · exact .inr ⟨h, lengthBad_encIn hlength⟩
  · cases hid
  · cases hvariant
  · cases hunknown
  · exact .inl h

theorem firstStat_frameIn (rtr : Bit) (fc : BitVec 4) (node : BitVec 7) (dlen : Byte) (p : Payload) :
    firstStat q (.frameIn rtr fc node dlen p) ∈ [0x10#5, 0x01#5, 0x13#5, 0x05#5] := by
  obtain ⟨-, h⟩ | ⟨hid, -⟩ | ⟨-, h⟩ | ⟨-, h⟩ | h := firstStat_cases q (.frameIn rtr fc node dlen p)
  · simp [h]
  · cases hid
  · simp [h]
  · simp [h]
  · simp [h]

end PossibleStatuses

/-! Requests that are not legal (R206). -/

theorem raiseStatus_illegalRequest (s : State) (c : Byte) :
    raiseStatus s (.illegalRequest c) = { s with res := none, stat := 0x04#5 } := by
  rw [raiseStatus, failureCode, packStat_illegalRequest]

theorem requestOutcome_of_not_legal {r : Request} (q : Params) (h : legal r = false) :
    requestOutcome q r = .error (.illegalRequest r.cmd) := by
  cases hd : decode r with
  | error e => exact requestOutcome_of_error hd
  | ok i =>
    have hlegal : legal r = true := (requestDecodesExactlyWhenLegal r).mp ⟨i, hd⟩
    rw [h] at hlegal
    cases hlegal

theorem presentRequest_of_not_legal {r : Request} (h : legal r = false) (s : State) :
    presentRequest r s = .next { s with res := none, stat := 0x04#5 } := by
  rw [presentRequest_eq_finish, requestOutcome_of_not_legal s.params h, finish_error, raiseStatus_illegalRequest]

theorem presentRequest_encode (i : Instr) (s : State) : presentRequest (encode i) s = exec i s := by
  rw [presentRequest_eq_finish, requestOutcome_of_ok (decode_encode i), exec_eq_finish]

/-! The obligations. -/

/-- Settles O4: the request decodes to no instruction, so no other check is made, and its outcome records the command
byte. -/
theorem illegalRequestRaisesItsStatus : Obligations.IllegalRequestRaisesItsStatus := by
  intro s r rest hs hillegal
  refine ⟨?_, requestOutcome_of_not_legal s.params hillegal⟩
  rw [step_of_host_cons hs]
  exact presentRequest_of_not_legal hillegal _

/-- Settles O20: a request that is not legal ends with ILLEGAL_REQUEST; a legal one is an instruction's encoding, and ends
with the status of its operand record. -/
theorem statusIsTheFirstThatApplies : Obligations.StatusIsTheFirstThatApplies := by
  intro r s t ht
  cases hlegal : legal r with
  | false =>
    rw [presentRequest_of_not_legal hlegal] at ht
    cases ht
    rfl
  | true =>
    obtain ⟨i, rfl⟩ := exists_eq_encode_of_legal hlegal
    rw [presentRequest_encode] at ht
    exact exec_stat ht

/-- Settles O21: the status of an instruction is its operand record's, whose type tells which conditions can apply. -/
theorem eachOperationsPossibleStatuses : Obligations.EachOperationsPossibleStatuses := by
  intro i s t ht
  rw [exec_stat ht]
  cases i with
  | classify img => exact firstStat_rawImg s.params img
  | decodeInit fc dlen b => exact firstStat_decIn s.params fc dlen b
  | parseInit img => exact firstStat_rawImg s.params img
  | encode p => exact firstStat_encIn s.params p
  | pack rtr fc node dlen p => exact firstStat_frameIn s.params rtr fc node dlen p
  | decodeSeg fc dlen b => exact firstStat_decIn s.params fc dlen b
  | parseSeg img => exact firstStat_rawImg s.params img
  | decodeGen fc dlen b => exact firstStat_decIn s.params fc dlen b
  | parseGen img => exact firstStat_rawImg s.params img

/-- Settles O42: each request passes its checks, and the class UNKNOWN selects tag 0b11, the opaque variant and the status;
ENCODE's possible statuses leave it out. -/
theorem unknownFunctionCodesPassThrough : Obligations.UnknownFunctionCodesPassThrough := by
  refine ⟨fun img s hok hcls => ⟨?_, fun ph => ?_⟩, fun fc dlen b s hlen hcls ph => ?_,
    fun rtr fc node dlen b len s hlen hcls => ?_, fun p s t ht => ?_⟩
  · have hrun := exec_classify_of_frameOk hok
    have htag : (frameHdr s.params img).msgType = typeTag (classOf s.params (fcOf img)) := by rw [fcOf_eq]; rfl
    rw [hcls] at hrun htag
    exact ⟨_, hrun, htag⟩
  · have hrun := exec_parseIn_of_frameOk ph hok
    rw [hcls] at hrun
    exact ⟨_, _, _, _, hrun⟩
  · have hrun := exec_decodeIn_of_short (fc := fc) (s := s) hlen ph b
    rw [hcls] at hrun
    exact ⟨_, _, _, hrun⟩
  · have hpack : compatible (classOf s.params fc) (.opaqueRaw b len) = true := by rw [hcls]; rfl
    have hrun := exec_pack_of_compatible rtr node hlen hpack
    rw [hcls] at hrun
    exact ⟨_, hrun⟩
  · rw [exec_stat ht]
    obtain h | ⟨h, -⟩ := firstStat_encIn s.params p
    · rw [instrOperand, h]; decide
    · rw [instrOperand, h]; decide

/-- Settles O9: with no action of the host left the step is idle. -/
theorem idleBlockHoldsItsRegisters : Obligations.IdleBlockHoldsItsRegisters := fun _ => step_of_host_nil

end Sys2Proof.Machine
end

section
/-! Reset and hazards (70_reset_and_hazards.md): of two requests in a row the later alone tells the registers, and DECODE in
a phase that does not fit the bytes completes as in any other phase, so an abort seen in a segment can be read again. -/

open Sys2Proof.Claims

namespace Sys2Proof.Machine

/-! Two requests in a row. -/

theorem step_of_request {s : State} {r : Request} {rest : List HostAction} (h : s.host = .request r :: rest) :
    step s = .next (finish { s with host := rest } (requestOutcome s.params r)) := by
  rw [step_of_host_cons h]
  exact presentRequest_eq_finish r _

theorem run_succ_of_step (M : Host.Core) {s t : M.State} (k : Nat) (h : M.step s = .next t) :
    M.run (k + 1) s = M.run k t := by
  rw [Host.Core.run, h]

/-- What the host does next has no part in the end of a request (R210). -/
theorem finish_with_host (s : State) (rest : List HostAction) (e : Except Failure Completion) :
    { finish s e with host := rest } = finish { s with host := rest } e := by
  cases e <;> rfl

/-- A request after the end of another leaves what it would have left without it (R60, R235). -/
theorem step_finish_of_request {s : State} {r : Request} {rest : List HostAction} (h : s.host = .request r :: rest)
    (e : Except Failure Completion) :
    step (finish s e) = .next (finish { s with host := rest } (requestOutcome s.params r)) := by
  rw [step_of_request ((finish_host s e).trans h), finish_with_host, finish_finish, finish_params]

theorem run_two_of_requests {s : State} {r₁ r₂ : Request} {rest : List HostAction}
    (h : s.host = .request r₁ :: .request r₂ :: rest) :
    core.run 2 s = .next (finish { s with host := rest } (requestOutcome s.params r₂)) :=
  (run_succ_of_step core 1 (step_of_request h)).trans (run_succ_of_step core 0 (step_finish_of_request rfl _))

/-! DECODE of the same bytes in another phase. -/

/-- A DECODE that leaves a result passed its length check (R156). -/
theorem dlen_le_of_decodeIn_res {ph : Phase} {fc : BitVec 4} {dlen : Byte} {b : Bytes 8} {s t : State} {r : Result}
    (ht : exec (decodeIn ph fc dlen b) s = .next t) (hres : t.res = some r) : dlen.toNat ≤ 8 := by
  by_contra hlong
  rw [exec_of_long s (by rw [instrLen_decodeIn]; omega)] at ht
  cases ht
  cases hres

/-- The command specifier of the SDO layouts is the command byte's upper three bits (R81 to R83). -/
theorem specifier_eq_four_iff (c : Byte) : c.extractLsb 7 5 = 4#3 ↔ c.toNat / 32 = 4 := by
  revert c; decide

/-- The payload's initiate layout where byte 0 is the segment byte 0x1B (R237). -/
theorem initOf_segmentByte {b : Bytes 8} (h : b[0] = 0x1B#8) :
    initOf b = .sdoInit 1#1 1#1 2#2 1#1 0#3 (b[2] ++ b[1]) b[3] #v[b[4], b[5], b[6], b[7]] := by
  rw [initOf, h]
  rfl

/-! The obligations. -/

/-- Settles O17: both steps are ends of requests, and the second overwrites what the first wrote. -/
theorem theLaterRequestOverwritesTheEarlier : Obligations.TheLaterRequestOverwritesTheEarlier := by
  intro s r₁ r₂ rest u hs hrun
  rw [run_two_of_requests hs] at hrun
  rw [presentRequest_eq_finish]
  exact hrun

/-- Settles O40: the segment decode left a result, so the length is at most 8, and its specifier is the one the generic
layout holds, which is what makes it an abort. -/
theorem anAbortSeenInASegmentRereadsInGen : Obligations.AnAbortSeenInASegmentRereadsInGen := by
  intro fc dlen b s t p d hsdo ht hres hcs
  have hlen : dlen.toNat ≤ 8 := dlen_le_of_decodeIn_res (ph := .seg) ht hres
  have hseg := exec_decodeIn_of_isSdo hlen hsdo .seg b
  cases hseg.symm.trans ht
  cases hres
  rw [specifierOf_readSdo, Option.some.injEq, specifier_eq_four_iff] at hcs
  refine ⟨_, decodeGenReadsTheGenericLayout fc dlen b _ hlen hsdo, ?_⟩
  simp only [if_pos hcs]

/-- Settles O41: DECODE.INIT completes with the initiate layout, whose fields the byte 0x1B spells. -/
theorem aWrongPhaseGoesUndetected : Obligations.AWrongPhaseGoesUndetected := by
  intro fc dlen b s hlen hsdo hbyte
  have hrun := exec_decodeIn_of_isSdo hlen hsdo .init b
  rw [readSdo_init, initOf_segmentByte hbyte] at hrun
  exact ⟨_, _, hrun, rfl, rfl⟩

end Sys2Proof.Machine
end

section
/-! A step by what the host does to the block: the reset input (70_reset_and_hazards.md R230), and a request that decodes
to an instruction (30_encoding.md R70). -/

namespace Sys2Proof.Machine

/-- A request that decodes to an instruction is that instruction's execution (R70, R236). -/
theorem presentRequest_of_ok {r : Request} {i : Instr} (h : decode r = .ok i) (s : State) :
    presentRequest r s = exec i s := by
  rw [presentRequest, acceptRequest_of_ok h]

/-- Settles O2: the step is the reset input at the state less the host's action. -/
theorem resetInputSetsBothRegisters : Obligations.ResetInputSetsBothRegisters := fun _ _ hs =>
  step_of_host_cons hs

/-- Settles O3: the step presents the request, which is accepted as the instruction it decodes to. -/
theorem stepExecutesTheDecodedRequest : Obligations.StepExecutesTheDecodedRequest := by
  intro s r rest i hs hdec
  rw [step_of_host_cons hs]
  exact presentRequest_of_ok hdec _

end Sys2Proof.Machine
end
